-- ==== Sys2Proof/Word.lean ====
section
/-! DEFINITION. The words of the EML-2240: the widths the spec gives its fields, stamps and counters. -/

namespace Sys2Proof

/-- One byte of a cell (12_formats_and_pins.md). -/
abbrev Byte := BitVec 8

/-- A cell's label, 0 to 4095; 4095 is the management label (R3, section 12.1). -/
abbrev Label := BitVec 12

/-- A sequence number, counted modulo 65,536 (00_scope.md, "Sequence numbers"). -/
abbrev Seq := BitVec 16

/-- A Time Base value or a duration in ticks, counted modulo 2^48 (R99, R103). -/
abbrev Time := BitVec 48

/-- A counter, 32 bits wide, wrapping to 0 (R173, R177). -/
abbrev Count := BitVec 32

/-- A payload check, 32 bits (R202). -/
abbrev Check := BitVec 32

/-- A set of alarm kinds, one bit per kind (section 12.3). -/
abbrev AlarmSet := BitVec 12

/-- A Flow Table index, 0 to 127 (R10). -/
abbrev Index := Fin 128

/-- The management label 4095 (R3). -/
def managementLabel : Label := 4095

end Sys2Proof
end

