-- ==== Sys2Proof/Syntax.lean ====
section
/-! DEFINITION. The commands of the block: one constructor per row of spec/opcode_table.json. -/

namespace Sys2Proof

/-- One of the two redundant incoming links (00_scope.md, "path"). -/
inductive Path where
  | a
  | b
deriving DecidableEq, Repr

/-- One of the 129 contexts of the Merge Engine: a flow context, or the management context M (R10, R46). -/
inductive ContextId where
  | flow (n : Index)
  | m
deriving DecidableEq, Repr

/-- A loss of signal on one path: `last` is the payload bytes 6 to 59 and the check bytes 60 to 63 of the cell in reception,
in wire order, where its last byte fell together with the loss, was taken first, and its context takes the cell after the loss (R51, R121,
assumption 31). -/
structure SignalLoss where
  path : Path
  last : Option (List Byte × List Byte)
deriving DecidableEq, Repr

/-- The steps of the part, one constructor per row of the table, in the table's order.

The operand `elapsed` is the number of ticks the reference clock counted since the step before (assumption 1).
The operand `header` is the six header bytes in wire order, the first byte the most significant (section 12.1).
The operands `target`, `tag` and `args` of a management command are its payload bytes 0, 1 and 5 to 53
(section 12.2); the command is handed to the Management Agent as R152 gives (assumption 5). -/
inductive Instr where
  /-- POWER_UP (R195). -/
  | powerUp
  /-- RESET_N_LOW (R195). -/
  | resetNLow
  /-- RESET_RELEASE (R195): `addr` is the level of the ADDR pins at the release (R151). -/
  | resetRelease (addr : BitVec 5)
  /-- LOAD_INSTANT (R196). -/
  | loadInstant (elapsed : Time)
  /-- SIGNAL_DETECTED (R113). -/
  | signalDetected (path : Path) (elapsed : Time)
  /-- SIGNAL_LOST (R113). -/
  | signalLost (loss : SignalLoss) (elapsed : Time)
  /-- HUNT_CANDIDATE_PASSES (R114): `bytes` are the bytes that arrived, in arrival order, each ending one candidate. -/
  | huntCandidatePasses (path : Path) (bytes : List Byte) (elapsed : Time)
  /-- HEADER_AT_BOUNDARY (R115 to R118). -/
  | headerAtBoundary (path : Path) (header : BitVec 48) (elapsed : Time)
  /-- CELL_LAST_BYTE (R117): the bytes that end the cell in reception, in wire order: the payload, bytes 6 to 59, and the
  payload check as it stands on the line, bytes 60 to 63 (section 12.1, R202). -/
  | cellLastByte (path : Path) (payload check : List Byte) (elapsed : Time)
  /-- SEEDING_DEADLINE (R30). -/
  | seedingDeadline (ctx : ContextId) (elapsed : Time)
  /-- GAP_EXPIRY (R59). -/
  | gapExpiry (ctx : ContextId) (elapsed : Time)
  /-- PRESENCE_EXPIRY (R52). -/
  | presenceExpiry (ctx : ContextId) (path : Path) (elapsed : Time)
  /-- ROUND_BOUNDARY (R138). -/
  | roundBoundary (elapsed : Time)
  /-- OUT_CELL_TIME_START (R87). -/
  | outCellTimeStart (elapsed : Time)
  /-- RETURN_CELL_TIME (R128): `addr` is the level of the ADDR pins, sampled only when this cell time applies and
  releases the full reset of a RESTART FULL (R151, R199). -/
  | returnCellTime (addr : BitVec 5) (elapsed : Time)
  /-- NOTIFY (R160). -/
  | notify
  /-- SAVE_WRITE_END (R191): `readBackOk` is whether the written slot is VALID. -/
  | saveWriteEnd (readBackOk : Bool) (elapsed : Time)
  /-- ECHO, code 0x01 (R162). -/
  | echo (target tag : Byte) (args : List Byte)
  /-- GET_STATUS, code 0x02 (R163). -/
  | getStatus (target tag : Byte) (args : List Byte)
  /-- GET_ENTRY, code 0x10 (R164). -/
  | getEntry (target tag : Byte) (args : List Byte)
  /-- PUT_ENTRY, code 0x11 (R132). -/
  | putEntry (target tag : Byte) (args : List Byte)
  /-- GET_SLOTS, code 0x12 (R164). -/
  | getSlots (target tag : Byte) (args : List Byte)
  /-- PUT_SLOTS, code 0x13 (R132). -/
  | putSlots (target tag : Byte) (args : List Byte)
  /-- PUT_CAL_HEADER, code 0x14 (R132). -/
  | putCalHeader (target tag : Byte) (args : List Byte)
  /-- COMMIT, code 0x18 (R134). -/
  | commit (target tag : Byte) (args : List Byte)
  /-- ABANDON, code 0x19 (R137). -/
  | abandon (target tag : Byte) (args : List Byte)
  /-- GET_COUNTERS, code 0x20 (R166). -/
  | getCounters (target tag : Byte) (args : List Byte)
  /-- GET_DEVICE_COUNTERS, code 0x21 (R167). -/
  | getDeviceCounters (target tag : Byte) (args : List Byte)
  /-- GET_ALARMS, code 0x24 (R168). -/
  | getAlarms (target tag : Byte) (args : List Byte)
  /-- CLEAR_ALARMS, code 0x25 (R182). -/
  | clearAlarms (target tag : Byte) (args : List Byte)
  /-- GET_SETTINGS, code 0x28 (R169). -/
  | getSettings (target tag : Byte) (args : List Byte)
  /-- PUT_SETTINGS, code 0x29 (R11). -/
  | putSettings (target tag : Byte) (args : List Byte)
  /-- GET_STRAYS, code 0x2C (R17). -/
  | getStrays (target tag : Byte) (args : List Byte)
  /-- CLEAR_STRAYS, code 0x2D (R18). -/
  | clearStrays (target tag : Byte) (args : List Byte)
  /-- RESET_FLOW, code 0x30 (R44). -/
  | resetFlow (target tag : Byte) (args : List Byte)
  /-- SAVE, code 0x38 (R190). -/
  | save (target tag : Byte) (args : List Byte)
  /-- LOAD, code 0x39 (R194). -/
  | load (target tag : Byte) (args : List Byte)
  /-- RESTART, code 0x3C, with kind byte 0xF1 (R172): `rest` is the 48 argument bytes behind the kind. -/
  | restartFull (target tag : Byte) (rest : List Byte)
  /-- RESTART, code 0x3C, with a kind byte other than 0xF1 (R171, R200): `rest` is the 48 bytes behind the kind. -/
  | restartTraffic (target tag kind : Byte) (rest : List Byte)
  /-- BAD_COMMAND: a command whose code names no command (R162). -/
  | badCommand (target tag code : Byte) (args : List Byte)
deriving DecidableEq, Repr

end Sys2Proof
end

