-- ==== Sys2Proof/Decode.lean ====
section
/-! DEFINITION. Reading a command from the bits of a table row. No row of spec/opcode_table.json gives bits: the part
takes steps, not words. -/

namespace Sys2Proof

/-- The command a word of the table spells: none, since no row of the table carries bits. -/
def decodeTableWord (_nbits _w : Nat) : Option Instr := none

end Sys2Proof
end

