-- ==== Sys2Proof/Config.lean ====
section
/-! DEFINITION. The fixed sizes and limits the spec gives the part, and the two values it leaves open: the integrity
check of a saved image, and whether a slot's contents have decayed. Both are opaque, so nothing can be proved of them. -/

namespace Sys2Proof.Config

/-- Cell buffers of the Buffer Pool (R67). -/
def poolSize : Nat := 2048

/-- Places of the reply queue (R157). -/
def replyPlaces : Nat := 8

/-- Commands the command queue holds (R153, R157). -/
def commandPlaces : Nat := 4

/-- Records of the Stray Label List (R16). -/
def strayPlaces : Nat := 8

/-- Positions of the emitted history (R23). -/
def historyPlaces : Nat := 64

/-- Out-of-window arrivals without an acceptance between that cause a resync (R34). -/
def resyncRun : Nat := 8

/-- Consecutive passing headers, the candidate included, that take a receiver to UP (R115). -/
def upHeaders : Nat := 6

/-- Consecutive failing headers that take a receiver from UP to HUNT (R116). -/
def huntHeaders : Nat := 4

/-- Bytes of a cell, the spacing of the boundary (R114 to R116). -/
def cellBytes : Nat := 64

/-- Bytes of a header (section 12.1). -/
def headerBytes : Nat := 6

/-- Bytes of a payload (section 12.1). -/
def payloadBytes : Nat := 54

/-- Bytes of a payload check, bytes 60 to 63 of a cell (section 12.1, R202). -/
def checkBytes : Nat := 4

/-- Argument bytes of a command and result bytes of a reply (section 12.2). -/
def argBytes : Nat := 49

/-- Ticks of one microsecond (R104). -/
def ticksPerMicro : Nat := 100

/-- Ticks of one millisecond (R104). -/
def ticksPerMilli : Nat := 100000

/-- Context M's window (R46). -/
def managementWindow : Nat := 64

/-- Context M's quota (R46). -/
def managementQuota : Nat := 16

/-- The largest value of a correction field (R107). -/
def correctionMax : Int := 2147483647

/-- The largest recorded skew, in ticks (R62). -/
def skewMax : Nat := 4294967295

/-- The integrity check over the bytes of a saved image (R187): the spec gives no algorithm and no width, so the function
is free (assumption 16). -/
opaque integrityCheck : List Byte → BitVec 32

/-- The contents of a slot (false: slot 0, true: slot 1) have decayed by the time the store consults its slots for the
given time, counted from 0 (R187): the spec does not say when they do, so the answer is free (assumption 16). -/
opaque slotDecayed : Nat → Bool → Bool

end Sys2Proof.Config
end

