-- ==== Sys2Proof/Machine/State.lean ====
section
/-! DEFINITION. The state of the EML-2240 as plain data, block by block as 00_scope.md's table of blocks gives it,
and the part after a full reset. -/

namespace Sys2Proof.Machine

open Sys2Proof

/-! ## Cells and buffers -/

/-- The kind of a cell (section 12.1). -/
inductive Kind where
  | data
  | clock
  | mgmt
  | idle
deriving DecidableEq, Repr

/-- One 64-byte cell, by its fields (section 12.1): the payload is 54 bytes, oldest first. -/
structure Cell where
  kind : Kind
  label : Label
  seq : Seq
  headerCheck : Byte
  payload : List Byte
  payloadCheck : Check
deriving DecidableEq, Repr

/-- A buffer in use: one whole cell with its record, the arrival path and the arrival stamp (R67). The payload check
the cell carried on arrival, the record's third item, is the cell's own until the Out transmitter forms a new one. -/
structure Buffer where
  cell : Cell
  path : Path
  stamp : Time
deriving DecidableEq, Repr

/-! ## The Merge Engine's contexts -/

/-- The five states of a context (R24). -/
inductive CtxState where
  | none
  | unseeded
  | seeding
  | running
  | draining
deriving DecidableEq, Repr

/-- A held record: the buffer with the whole cell and the other-copy-seen flag (R22). -/
structure HeldRec where
  buffer : Buffer
  otherSeen : Bool
deriving DecidableEq, Repr

/-- One position of the emitted history (R23). -/
inductive HistPos where
  | none
  | emitted (check : Check) (path : Path) (stamp : Time) (secondSeen : Bool)
  | skipped
deriving DecidableEq, Repr

/-- One presence record: PRESENT or not, the last arrival stamp, and the presence expiry while PRESENT (R50). -/
structure Presence where
  present : Bool
  last : Option Time
  expiry : Option Time
deriving DecidableEq, Repr

/-- The skew record: last skew, maximum skew, leading path of the last pair (R63). -/
structure SkewRecord where
  last : Count
  max : Count
  leading : Option Path
deriving DecidableEq, Repr

/-- The fifteen counters of a context (R173). -/
structure FlowCounters where
  acceptedA : Count
  acceptedB : Count
  dupA : Count
  dupB : Count
  late : Count
  outOfWindow : Count
  quotaDrop : Count
  noBuffer : Count
  lost : Count
  mismatch : Count
  skewExceeded : Count
  emitted : Count
  flushed : Count
  resync : Count
  correctionSaturated : Count
deriving DecidableEq, Repr

/-- A flow context, or context M (R21). `held` is ordered by distance ahead of NES, least first (R22); `history` has
the position of NES − 1 first (R23); `queue` is oldest first. -/
structure Ctx where
  state : CtxState
  nes : Seq
  seedingStamp : Option Time
  seedingDeadline : Option Time
  gapDeadline : Option Time
  held : List HeldRec
  queue : List Buffer
  servingClass : Fin 8
  presA : Presence
  presB : Presence
  runCount : Nat
  renumber : Seq
  skew : SkewRecord
  history : List HistPos
  counters : FlowCounters
deriving DecidableEq, Repr

/-! ## The Table Unit -/

/-- The path policy of an entry (R4). -/
inductive Policy where
  | both
  | aOnly
  | bOnly
deriving DecidableEq, Repr

/-- The five window sizes (R1). -/
inductive Window where
  | w16
  | w32
  | w64
  | w128
  | w256
deriving DecidableEq, Repr

/-- A Flow Table entry, its eleven fields (R1). `hold` and `loneHold` are in microseconds; `renumber` is sequence mode
RENUMBER, its absence KEEP. -/
structure Entry where
  valid : Bool
  inLabel : Label
  outLabel : Label
  policy : Policy
  window : Window
  hold : BitVec 16
  loneHold : BitVec 16
  quota : BitVec 16
  cls : Fin 8
  renumber : Bool
  restamp : Bool
deriving DecidableEq, Repr

/-- A calendar slot: IDLE or a class (R7). -/
inductive Slot where
  | idle
  | cls (c : Fin 8)
deriving DecidableEq, Repr

/-- A Calendar: the header (length L and LEND) and 128 slots (R7). -/
structure Calendar where
  length : Nat
  lend : Bool
  slots : List Slot
deriving DecidableEq, Repr

/-- One bank: the Flow Table of 128 entries and the Calendar (R8, R9). -/
structure Bank where
  entries : List Entry
  calendar : Calendar
deriving DecidableEq, Repr

/-- The Settings record (R11): `pathTimeout` in milliseconds, the others in microseconds. -/
structure Settings where
  pathTimeout : BitVec 16
  managementHold : BitVec 16
  skewLimit : BitVec 16
  alarmMask : AlarmSet
  notifyMask : AlarmSet
deriving DecidableEq, Repr

/-- The commit state; OUTSTANDING holds the tag of the COMMIT whose reply place is reserved (R133). -/
inductive CommitState where
  | none
  | outstanding (tag : Byte)
deriving DecidableEq, Repr

/-- What the Table Unit owns. -/
structure Tables where
  active : Bank
  pendingBank : Bank
  settings : Settings
  commit : CommitState
deriving DecidableEq, Repr

/-! ## The links, the Classifier and the counters -/

/-- The receiver states (R112). -/
inductive RxState where
  | down
  | hunt
  | check
  | up
deriving DecidableEq, Repr

/-- The header fields of a cell in reception in UP (R117). -/
structure Header where
  kind : Kind
  label : Label
  seq : Seq
  check : Byte
deriving DecidableEq, Repr

/-- A path receiver (R112). `boundary` counts bytes of the stream from the candidate's last byte (assumption 9);
`recent` is what the next candidate in HUNT starts with: the bytes received last, oldest first, at most five (R114);
`reception` is the cell whose header was judged and whose last byte has not come (R117, R121); `signal` is what the
line circuit reports (R113). -/
structure Receiver where
  state : RxState
  boundary : Option Nat
  passCount : Nat
  failCount : Nat
  recent : List Byte
  reception : Option Header
  signal : Bool
deriving DecidableEq, Repr

/-- The eight device counters of one path (R124). -/
structure PathCounters where
  cellsReceived : Count
  headerErrors : Count
  formatErrors : Count
  payloadErrors : Count
  cellsCut : Count
  upEntries : Count
  unmatched : Count
  ignoredPath : Count
deriving DecidableEq, Repr

/-- The twenty device counters (R177). -/
structure DeviceCounters where
  a : PathCounters
  b : PathCounters
  strayOverflow : Count
  idleSent : Count
  notForMe : Count
  overrun : Count
deriving DecidableEq, Repr

/-- One record of the Stray Label List (R16). -/
structure Stray where
  label : Label
  firstSeen : Path
  count : Count
  last : Time
deriving DecidableEq, Repr

/-! ## Pool, Scheduler, transmitters -/

/-- The Buffer Pool: the free list is unordered and its buffers are equal, so it is its count (R69); and the low-water
mark (R79). -/
structure Pool where
  free : Nat
  lowWater : Nat
deriving DecidableEq, Repr

/-- The Scheduler: calendar position, whether a cell time at that position has begun (assumption 8), and the eight
class rings, class 0 first, each head first (R81, R83). -/
structure Scheduler where
  position : Nat
  slotUsed : Bool
  rings : List (List Index)
deriving DecidableEq, Repr

/-- The Out transmitter: the buffer it holds and the 64 bytes of the cell in its line stage in wire order, none while Out
carries no signal (R74, R92, R97, section 12.1). -/
structure OutTx where
  buffer : Option Buffer
  line : Option (List Byte)
deriving DecidableEq, Repr

/-- The return transmitters: the 64 bytes of the one cell both directions carry in wire order, none while they carry no
signal, and the reply sequence counter (R127, R130, section 12.1). -/
structure ReturnTx where
  line : Option (List Byte)
  seq : Seq
deriving DecidableEq, Repr

/-! ## The Management Agent, the store, the alarms -/

/-- A command of the command queue (R150): 49 argument bytes. -/
structure Command where
  target : Byte
  tag : Byte
  code : Byte
  args : List Byte
deriving DecidableEq, Repr

/-- The status of a reply (R155). -/
inductive Status where
  | ok
  | badCommand
  | badArgument
  | commitPending
  | validationFailed
  | storeBusy
  | storeEmpty
  | storeFailed
deriving DecidableEq, Repr

/-- A reply or notification as the agent forms it (R155, R160). `restartsFull` marks the reply to RESTART FULL, whose
take applies the full reset (R199). -/
structure Reply where
  source : Byte
  tag : Byte
  code : Byte
  status : Status
  result : List Byte
  restartsFull : Bool
deriving DecidableEq, Repr

/-- A place of the reply queue: filled, or reserved with the command's tag and code (R156). -/
inductive Place where
  | filled (reply : Reply)
  | reserved (tag code : Byte)
deriving DecidableEq, Repr

/-- The agent's state (R150); both queues oldest first. -/
structure Agent where
  strap : BitVec 5
  commands : List Command
  replies : List Place
  overrun : Bool
  integrity : Bool
  notifyPending : Bool
  restartWaiting : Bool
deriving DecidableEq, Repr

/-- One saved image, its integrity check with it (R187). -/
structure Image where
  generation : Count
  bank : Bank
  settings : Settings
  check : BitVec 32
deriving DecidableEq, Repr

/-- The store state; WRITING holds the slot being written (false: slot 0, true: slot 1) and the copy taken (R189). -/
inductive StoreState where
  | idle
  | writing (slot : Bool) (image : Image)
deriving DecidableEq, Repr

/-- The Retained Store: two slots, none for one that holds no image (R187), the store state, and `consultations`, the
model's own count of the times the slots were judged, from which it draws whether a slot's contents have decayed
(assumption 16). -/
structure Store where
  slot0 : Option Image
  slot1 : Option Image
  state : StoreState
  consultations : Nat
deriving DecidableEq, Repr

/-- The twelve alarm kinds (section 10.3). -/
inductive AlarmKind where
  | linkADown
  | linkBDown
  | poolEmpty
  | flowUnprotected
  | flowSilent
  | mismatch
  | skew
  | loss
  | resync
  | mgmtOverrun
  | storeFailed
  | storeEmpty
deriving DecidableEq, Repr

/-- The Alarm Unit: the latches, and the copies of the conditions as last reported (R179). -/
structure Alarms where
  latched : AlarmSet
  holding : AlarmSet
deriving DecidableEq, Repr

/-- Where the part stands in a full reset (R195, R196): held at power-up, held with RESET_N low, in the STARTING phase,
or at work. -/
inductive Phase where
  | heldPower
  | heldPin
  | starting
  | active
deriving DecidableEq, Repr

/-! ## The whole state -/

/-- The state of the part. `pending` is the queue of steps that wait, first in, first out; every other field is a
block's own state. -/
structure State where
  pending : List Instr
  phase : Phase
  timeBase : Time
  addrPins : BitVec 5
  rxA : Receiver
  rxB : Receiver
  device : DeviceCounters
  strays : List Stray
  tables : Tables
  flows : List Ctx
  m : Ctx
  pool : Pool
  sched : Scheduler
  out : OutTx
  ret : ReturnTx
  agent : Agent
  store : Store
  alarms : Alarms
deriving DecidableEq, Repr

/-- Why the part would stop with a fault. The spec gives every command of the table an effect in every state, so no
meaning raises a fault and there is no constructor. -/
inductive Fault where
deriving DecidableEq, Repr

/-- Why a command would be refused. -/
inductive Refusal where
  /-- Raised by exec's own arm for a command that has no meaning yet, and by nothing else; safe, since the run stops.
  No arm raises it: every command of the table has its meaning. -/
  | notModelled (mnemonic : String)
deriving DecidableEq, Repr

/-! ## Default contents and reset values -/

/-- The default Flow Table entry (R12). -/
def Entry.default : Entry :=
  { valid := false, inLabel := 0, outLabel := 0, policy := .both, window := .w32, hold := 1000, loneHold := 500,
    quota := 64, cls := 0, renumber := false, restamp := false }

/-- The default Calendar (R12). -/
def Calendar.default : Calendar := { length := 1, lend := false, slots := List.replicate 128 .idle }

/-- The default contents of a bank (R12). -/
def Bank.default : Bank := { entries := List.replicate 128 Entry.default, calendar := Calendar.default }

/-- The default Settings (R11). -/
def Settings.default : Settings :=
  { pathTimeout := 20, managementHold := 2000, skewLimit := 5000, alarmMask := 4095, notifyMask := 0 }

/-- Every counter of a context at 0 (R175). -/
def FlowCounters.zero : FlowCounters := ⟨0, 0, 0, 0, 0, 0, 0, 0, 0, 0, 0, 0, 0, 0, 0⟩

/-- Every device counter of a path at 0 (R124). -/
def PathCounters.zero : PathCounters := ⟨0, 0, 0, 0, 0, 0, 0, 0⟩

/-- Every device counter at 0 (R177). -/
def DeviceCounters.zero : DeviceCounters := ⟨PathCounters.zero, PathCounters.zero, 0, 0, 0, 0⟩

/-- Zero skews and no leading path (R63). -/
def SkewRecord.zero : SkewRecord := ⟨0, 0, none⟩

/-- ABSENT with no last arrival stamp and no expiry (R66). -/
def Presence.fresh : Presence := ⟨false, none, none⟩

/-- The history all NONE (R23). -/
def emptyHistory : List HistPos := List.replicate Config.historyPlaces .none

/-- A context as a reset leaves it, in the given state and serving class (R49). -/
def Ctx.fresh (state : CtxState) (cls : Fin 8) : Ctx :=
  { state := state, nes := 0, seedingStamp := none, seedingDeadline := none, gapDeadline := none, held := [],
    queue := [], servingClass := cls, presA := Presence.fresh, presB := Presence.fresh, runCount := 0, renumber := 0,
    skew := SkewRecord.zero, history := emptyHistory, counters := FlowCounters.zero }

/-- A receiver as a full reset leaves it, the line's signal apart (R112). -/
def Receiver.down (signal : Bool) : Receiver :=
  { state := .down, boundary := none, passCount := 0, failCount := 0, recent := [], reception := none, signal := signal }

/-- The part right after the full reset of a power-up, still held in reset: every block at its full-reset value
(section 11.6), both link conditions holding and latched (R185), the Retained Store never written (R187). What the
spec gives no value for is said in assumption 4. -/
def State.reset : State :=
  { pending := []
    phase := .heldPower
    timeBase := 0
    addrPins := 0
    rxA := Receiver.down false
    rxB := Receiver.down false
    device := DeviceCounters.zero
    strays := []
    tables := { active := Bank.default, pendingBank := Bank.default, settings := Settings.default, commit := .none }
    flows := List.replicate 128 (Ctx.fresh .none 0)
    m := Ctx.fresh .unseeded 0
    pool := { free := Config.poolSize, lowWater := Config.poolSize }
    sched := { position := 0, slotUsed := false, rings := List.replicate 8 [] }
    out := { buffer := none, line := none }
    ret := { line := none, seq := 0 }
    agent := { strap := 0, commands := [], replies := [], overrun := false, integrity := false,
               notifyPending := false, restartWaiting := false }
    store := { slot0 := none, slot1 := none, state := .idle, consultations := 0 }
    alarms := { latched := 3, holding := 3 } }

end Sys2Proof.Machine
end

