-- ==== Sys2Proof/Machine/Flags.lean ====
section
/-! DEFINITION. The Alarm Unit's flags: the sets of alarm kinds, latching and condition reports, ALARM_N, and the
agent's notification-pending flag that a latch sets (R159, R179 to R184). -/

namespace Sys2Proof.Machine

open Sys2Proof

/-- The bit of a kind in a set of alarm kinds (section 12.3). -/
def AlarmKind.bit : AlarmKind → Nat
  | .linkADown => 0
  | .linkBDown => 1
  | .poolEmpty => 2
  | .flowUnprotected => 3
  | .flowSilent => 4
  | .mismatch => 5
  | .skew => 6
  | .loss => 7
  | .resync => 8
  | .mgmtOverrun => 9
  | .storeFailed => 10
  | .storeEmpty => 11

/-- The set that holds one kind. -/
def AlarmKind.mask (k : AlarmKind) : AlarmSet := BitVec.twoPow 12 k.bit

/-- A set holds a kind. -/
def hasKind (set : AlarmSet) (k : AlarmKind) : Bool := set.getLsbD k.bit

/-- The kind's latch is set, and the notification-pending flag with it when the kind was not latched and the notify
mask enables it (R159, R180, R181). -/
def State.latch (k : AlarmKind) (s : State) : State :=
  if hasKind s.alarms.latched k then s
  else { s with
    alarms := { s.alarms with latched := s.alarms.latched ||| k.mask }
    agent := { s.agent with
      notifyPending := s.agent.notifyPending || hasKind s.tables.settings.notifyMask k } }

/-- Several events of one instant. -/
def State.latchAll (ks : List AlarmKind) (s : State) : State := ks.foldl (fun t k => t.latch k) s

/-- The owner of a condition kind reports the condition as it now stands: becoming true it is recorded and latched,
becoming false the latch stays (R180). -/
def State.report (k : AlarmKind) (holds : Bool) (s : State) : State :=
  if holds then
    if hasKind s.alarms.holding k then s
    else State.latch k { s with alarms := { s.alarms with holding := s.alarms.holding ||| k.mask } }
  else { s with alarms := { s.alarms with holding := s.alarms.holding &&& ~~~ k.mask } }

/-- ALARM_N is driven low: at least one latched kind is enabled in the alarm mask (R183). -/
def State.alarmNLow (s : State) : Bool := (s.alarms.latched &&& s.tables.settings.alarmMask) != 0

/-- The link kind of a path (R125). -/
def linkKind : Path → AlarmKind
  | .a => .linkADown
  | .b => .linkBDown

/-- The latches CLEAR_ALARMS leaves: a named kind whose condition does not hold is cleared (R182). -/
def clearedLatches (alarms : Alarms) (named : AlarmSet) : AlarmSet :=
  alarms.latched &&& ~~~ (named &&& ~~~ alarms.holding)

end Sys2Proof.Machine
end

