-- ==== Sys2Proof/Machine/Checks.lean ====
section
/-! DEFINITION. Byte order, the two checks of a cell, and the cell layout (section 12.1, R202). -/

namespace Sys2Proof.Machine

open Sys2Proof

/-! ## Bytes -/

/-- The `n` bytes of a number, most significant byte first (chapter 12: multi-byte fields). -/
def beBytes : Nat → Nat → List Byte
  | 0, _ => []
  | n + 1, v => BitVec.ofNat 8 (v >>> (8 * n)) :: beBytes n v

/-- The number that bytes spell, most significant byte first. -/
def beNat (bytes : List Byte) : Nat := bytes.foldl (fun acc b => acc * 256 + b.toNat) 0

/-- Byte `i` of a list of bytes, 0 beyond its end. -/
def byteAt (bytes : List Byte) (i : Nat) : Byte := bytes.getD i 0

/-- The 16-bit field whose first byte is byte `i`. -/
def wordAt (bytes : List Byte) (i : Nat) : BitVec 16 := byteAt bytes i ++ byteAt bytes (i + 1)

/-- Exactly `n` bytes: cut, or filled up with zero bytes. -/
def fitBytes (n : Nat) (bytes : List Byte) : List Byte := (bytes ++ List.replicate n 0).take n

/-- The last `n` bytes of a list of bytes, or all of them. -/
def lastBytes (n : Nat) (bytes : List Byte) : List Byte := bytes.drop (bytes.length - n)

/-! ## The checks -/

/-- The bits of a byte, most significant first (R202). -/
def byteBits (b : Byte) : List Bool :=
  [b.getLsbD 7, b.getLsbD 6, b.getLsbD 5, b.getLsbD 4, b.getLsbD 3, b.getLsbD 2, b.getLsbD 1, b.getLsbD 0]

/-- A CRC register after the bits have been fed in order, no reflection: it shifts left, and where its top bit differs
from the bit fed the generator is added (R202). -/
def crcBits {w : Nat} (poly : BitVec w) : List Bool → BitVec w → BitVec w
  | [], reg => reg
  | bit :: rest, reg =>
    if reg.msb = bit then crcBits poly rest (reg <<< 1) else crcBits poly rest ((reg <<< 1) ^^^ poly)

/-- The CRC register after all bytes, fed in order. -/
def crcFeed {w : Nat} (poly start : BitVec w) (bytes : List Byte) : BitVec w :=
  crcBits poly (bytes.flatMap byteBits) start

/-- The header check over bytes 0 to 4 (R202). -/
def headerCheckOf (bytes : List Byte) : Byte := crcFeed 0x07#8 0 bytes

/-- The payload check over the 54 payload bytes (R202). -/
def payloadCheckOf (bytes : List Byte) : Check := ~~~ crcFeed 0x04C11DB7#32 0xFFFFFFFF bytes

/-! ## The cell layout -/

/-- The 12-bit code of a kind (section 12.1). -/
def Kind.code : Kind → BitVec 12
  | .data => 0x1A5
  | .clock => 0x2B6
  | .mgmt => 0x4C9
  | .idle => 0x8F0

/-- The kind a 12-bit code names, if any (section 12.1). -/
def kindOf (code : BitVec 12) : Option Kind :=
  if code = 0x1A5 then some .data
  else if code = 0x2B6 then some .clock
  else if code = 0x4C9 then some .mgmt
  else if code = 0x8F0 then some .idle
  else none

/-- Header bytes 0 to 4 from the header fields (section 12.1). -/
def headerBytes (kind : Kind) (label : Label) (seq : Seq) : List Byte :=
  beBytes 5 (kind.code ++ label ++ seq).toNat

/-- Six header bytes as one number, the first byte the most significant. -/
def headerOf (bytes : List Byte) : BitVec 48 := BitVec.ofNat 48 (beNat bytes)

/-- The six header bytes in wire order. -/
def wireBytes (header : BitVec 48) : List Byte := beBytes 6 header.toNat

/-- The kind field of six header bytes in wire order. -/
def wireKind (header : BitVec 48) : Option Kind := kindOf (header.extractLsb' 36 12)

/-- The label field of six header bytes. -/
def wireLabel (header : BitVec 48) : Label := header.extractLsb' 24 12

/-- The sequence field of six header bytes. -/
def wireSeq (header : BitVec 48) : Seq := header.extractLsb' 8 16

/-- The header check carried in six header bytes. -/
def wireCheck (header : BitVec 48) : Byte := header.extractLsb' 0 8

/-- A header passes when byte 5 equals the check computed over bytes 0 to 4 (R202). -/
def headerPasses (header : BitVec 48) : Bool :=
  headerCheckOf (beBytes 5 (header.toNat >>> 8)) == wireCheck header

/-- A payload passes when the carried check equals the one computed over it (R202). -/
def payloadPasses (payload : List Byte) (check : Check) : Bool := payloadCheckOf payload == check

/-- Bytes 60 to 63 of a cell that carries this payload check, most significant byte first (R202). -/
def checkBytes (check : Check) : List Byte := beBytes Config.checkBytes check.toNat

/-- The payload check that bytes 60 to 63 of a cell carry, most significant byte first (R202). -/
def checkOf (bytes : List Byte) : Check := byteAt bytes 0 ++ byteAt bytes 1 ++ byteAt bytes 2 ++ byteAt bytes 3

/-- The header is a format error: kind and label disagree, or the kind value names none (R118). -/
def formatError (kind : Option Kind) (label : Label) : Bool :=
  match kind with
  | some .mgmt => label != managementLabel
  | some _ => label == managementLabel
  | none => true

/-- A cell as a transmitter sends it, both checks computed over it as it leaves (R93, R129). -/
def formCell (kind : Kind) (label : Label) (seq : Seq) (payload : List Byte) : Cell :=
  { kind := kind, label := label, seq := seq, headerCheck := headerCheckOf (headerBytes kind label seq),
    payload := payload, payloadCheck := payloadCheckOf payload }

/-- The 64 bytes of a cell in wire order: header bytes 0 to 4, the header check, the 54 payload bytes, and the payload check
in bytes 60 to 63 (section 12.1, R202). -/
def Cell.wire (c : Cell) : List Byte :=
  headerBytes c.kind c.label c.seq ++ [c.headerCheck] ++ c.payload ++ checkBytes c.payloadCheck

/-- The idle cell of Out and of the return directions (R94, R131). -/
def idleCell : Cell := formCell .idle 0 0 (List.replicate Config.payloadBytes 0)

end Sys2Proof.Machine
end

