-- ==== Sys2Proof/Machine/Context.lean ====
section
/-! DEFINITION. What a context of the Merge Engine does with its own record: judging arrivals (R25 to R38), presence
(R50 to R54), the applicable hold and the deadlines (R55 to R59), skew (R62), release (R39 to R41), and the changes
that commits and resets make to it. Nothing here touches another block; the state-level operations are in Ops.lean. -/

namespace Sys2Proof.Machine

open Sys2Proof

/-! ## Distances, durations, parameters -/

/-- The distance of `s` from `n` (00_scope.md, "Sequence numbers"). -/
def seqDist (n s : Seq) : Nat := (s - n).toNat

/-- The ticks from an earlier Time Base value to a later one, modulo 2^48 (R103). -/
def ticksSince (now stamp : Time) : Nat := (now - stamp).toNat

/-- The numbers a window spans (R1). -/
def Window.size : Window → Nat
  | .w16 => 16
  | .w32 => 32
  | .w64 => 64
  | .w128 => 128
  | .w256 => 256

/-- What a context reads of its ACTIVE entry, or of Settings for context M; holds in ticks (R21, R46, R104). -/
structure Params where
  window : Nat
  quota : Nat
  hold : Nat
  loneHold : Nat
  policy : Policy
deriving DecidableEq, Repr

/-- The parameters of a flow context, from its entry (R21, R104). -/
def Params.ofEntry (e : Entry) : Params :=
  { window := e.window.size, quota := e.quota.toNat, hold := e.hold.toNat * Config.ticksPerMicro,
    loneHold := e.loneHold.toNat * Config.ticksPerMicro, policy := e.policy }

/-- The parameters of context M (R46). -/
def Params.ofSettings (t : Settings) : Params :=
  { window := Config.managementWindow, quota := Config.managementQuota,
    hold := t.managementHold.toNat * Config.ticksPerMicro,
    loneHold := t.managementHold.toNat * Config.ticksPerMicro, policy := .both }

/-! ## Counters -/

/-- ACCEPTED of a path increases (R39). -/
def FlowCounters.countAccepted (p : Path) (k : FlowCounters) : FlowCounters :=
  match p with
  | .a => { k with acceptedA := k.acceptedA + 1 }
  | .b => { k with acceptedB := k.acceptedB + 1 }

/-- DUP of a path increases (R37). -/
def FlowCounters.countDup (p : Path) (k : FlowCounters) : FlowCounters :=
  match p with
  | .a => { k with dupA := k.dupA + 1 }
  | .b => { k with dupB := k.dupB + 1 }

/-! ## Presence -/

/-- The presence record of a path. -/
def Ctx.pres (c : Ctx) : Path → Presence
  | .a => c.presA
  | .b => c.presB

/-- Writes the presence record of a path. -/
def Ctx.setPres (p : Path) (r : Presence) (c : Ctx) : Ctx :=
  match p with
  | .a => { c with presA := r }
  | .b => { c with presB := r }

/-- A marking arrival: PRESENT, stamp and expiry set anew (R51). `timeout` is the path timeout in ticks. -/
def Ctx.markPresent (p : Path) (timeout : Nat) (stamp : Time) (c : Ctx) : Ctx :=
  c.setPres p { present := true, last := some stamp, expiry := some (stamp + BitVec.ofNat 48 timeout) }

/-- The path becomes ABSENT, its last arrival stamp kept (R52, R53). -/
def Presence.drop (r : Presence) : Presence := { r with present := false, expiry := none }

/-- The path becomes ABSENT for the context (R52, R53). -/
def Ctx.markAbsent (p : Path) (c : Ctx) : Ctx := c.setPres p (c.pres p).drop

/-- The record's presence expiry is reached: PRESENT, and the path timeout has passed since the stamp (R52). -/
def Presence.expired (timeout : Nat) (now : Time) (r : Presence) : Bool :=
  match r.last with
  | some stamp => r.present && decide (timeout ≤ ticksSince now stamp)
  | none => false

/-- A record under a new path timeout: its expiry set from the kept stamp, or ABSENT at once (R52). -/
def Presence.retime (timeout : Nat) (now : Time) (r : Presence) : Presence :=
  if r.present then
    if r.expired timeout now then r.drop
    else { r with expiry := r.last.map (fun stamp => stamp + BitVec.ofNat 48 timeout) }
  else r

/-- Both records of a context under a new path timeout (R52). -/
def Ctx.retime (timeout : Nat) (now : Time) (c : Ctx) : Ctx :=
  { c with presA := c.presA.retime timeout now, presB := c.presB.retime timeout now }

/-- The policy uses the path (R4). -/
def Policy.uses : Policy → Path → Bool
  | .both, _ => true
  | .aOnly, .a => true
  | .aOnly, .b => false
  | .bOnly, .a => false
  | .bOnly, .b => true

/-- The paths a policy excludes become ABSENT (R54, R145). -/
def Ctx.alignPresence (policy : Policy) (c : Ctx) : Ctx :=
  { c with
    presA := if policy.uses .a then c.presA else c.presA.drop
    presB := if policy.uses .b then c.presB else c.presB.drop }

/-! ## The applicable hold and the deadlines -/

/-- The applicable hold, in ticks (R55). -/
def Ctx.applicableHold (p : Params) (c : Ctx) : Nat :=
  if p.policy = .both ∧ c.presA.present = true ∧ c.presB.present = true then p.hold else p.loneHold

/-- A deadline with this reference stamp is reached (R56). -/
def deadlineReached (hold : Nat) (now stamp : Time) : Bool := decide (hold ≤ ticksSince now stamp)

/-- The moment of a deadline: reference stamp plus applicable hold (R29, R58). -/
def deadlineAt (hold : Nat) (stamp : Time) : Time := stamp + BitVec.ofNat 48 hold

/-! ## The emitted history -/

/-- `k` positions join the history at its newest end and as many leave it (R23). -/
def pushHistory (pos : HistPos) (k : Nat) (history : List HistPos) : List HistPos :=
  (List.replicate k pos ++ history).take Config.historyPlaces

/-- The position of a number `behind` numbers behind NES, 1 for NES − 1 (R23). -/
def historyAt (history : List HistPos) (behind : Nat) : HistPos := history.getD (behind - 1) .none

/-- Sets the second-copy-seen flag of an EMITTED position (R37). -/
def HistPos.markSecond : HistPos → HistPos
  | .emitted check path stamp _ => .emitted check path stamp true
  | h => h

/-! ## The held set -/

/-- A record joins the held set in its order, by distance ahead of NES (R22). -/
def insertHeld (nes : Seq) (h : HeldRec) : List HeldRec → List HeldRec
  | [] => [h]
  | x :: xs =>
    if seqDist nes h.buffer.cell.seq < seqDist nes x.buffer.cell.seq then h :: x :: xs
    else x :: insertHeld nes h xs

/-- The held record of a sequence number. -/
def findHeld (held : List HeldRec) (seq : Seq) : Option HeldRec := held.find? (fun h => h.buffer.cell.seq == seq)

/-- Sets the other-copy-seen flag of the held record of a number (R37). -/
def markHeldSeen (seq : Seq) (held : List HeldRec) : List HeldRec :=
  held.map (fun h => if h.buffer.cell.seq == seq then { h with otherSeen := true } else h)

/-- A context's occupancy: held records plus queued buffers, the queue being empty for context M (R71). -/
def Ctx.occupancy (c : Ctx) : Nat := c.held.length + c.queue.length

/-! ## Judging an arrival -/

/-- The six dispositions of an arrival (R25). -/
inductive Disposition where
  | accepted
  | duplicate
  | late
  | outOfWindow
  | quotaDrop
  | noBuffer
deriving DecidableEq, Repr

/-- What judging an arrival gives: the context after it, the disposition, how many held records were flushed, and the
alarm events (R25, R35, R37). -/
structure Judged where
  ctx : Ctx
  disp : Disposition
  flushed : Nat
  events : List AlarmKind
deriving DecidableEq, Repr

/-- The acceptance test: the quota first, the free list second (R70). -/
def acceptanceTest (p : Params) (free : Nat) (c : Ctx) : Disposition :=
  if p.quota ≤ c.occupancy then .quotaDrop else if free = 0 then .noBuffer else .accepted

/-- Counts a refusal of the acceptance test; an accepted cell counts nothing here (R26). -/
def Ctx.countRefusal (d : Disposition) (c : Ctx) : Ctx :=
  match d with
  | .quotaDrop => { c with counters := { c.counters with quotaDrop := c.counters.quotaDrop + 1 } }
  | .noBuffer => { c with counters := { c.counters with noBuffer := c.counters.noBuffer + 1 } }
  | _ => c

/-- A cell put to the acceptance test: `take` is what the context does with it when it is accepted; refused, it changes
one counter (R26, R70). -/
def Ctx.tryAccept (p : Params) (free : Nat) (take : Ctx → Ctx) (c : Ctx) : Judged :=
  let d := acceptanceTest p free c
  if d = .accepted then { ctx := take c, disp := d, flushed := 0, events := [] }
  else { ctx := c.countRefusal d, disp := d, flushed := 0, events := [] }

/-- The first acceptance seeds the context (R27): the seeding floor is the base minus half the window. -/
def Ctx.seed (p : Params) (b : Buffer) (c : Ctx) : Ctx :=
  { c with
    state := .seeding
    nes := b.cell.seq - BitVec.ofNat 16 (p.window / 2)
    seedingStamp := some b.stamp
    seedingDeadline := none
    gapDeadline := none
    held := [{ buffer := b, otherSeen := false }]
    history := emptyHistory
    runCount := 0 }

/-- An accepted cell joins the held set in its order, and the run count becomes 0 (R28, R32, R33). A cell at NES joins
it too, at its lowest place, and is released before the step ends (assumption 22). -/
def Ctx.hold (b : Buffer) (c : Ctx) : Ctx :=
  { c with held := insertHeld c.nes { buffer := b, otherSeen := false } c.held, runCount := 0 }

/-- The skew of a first duplicate, in ticks (R62). -/
def skewTicks (kept dup : Time) : Nat := ticksSince dup kept

/-- The skew record after a measurement (R62). -/
def SkewRecord.measure (ticks : Nat) (leading : Path) (r : SkewRecord) : SkewRecord :=
  let v : Count := BitVec.ofNat 32 (min ticks Config.skewMax)
  { last := v, max := if r.max < v then v else r.max, leading := some leading }

/-- The compare and measurement a duplicate brings, given the kept copy's check, path and stamp and whether this is the
first duplicate of its number; `limit` is the skew limit in ticks (R37, R62). -/
def Ctx.countDuplicate (limit : Nat) (check : Check) (kept : Path) (stamp : Time) (first : Bool) (b : Buffer)
    (c : Ctx) : Judged :=
  let differs := b.cell.payloadCheck != check
  let ticks := skewTicks stamp b.stamp
  let exceeds := first && decide (limit < ticks)
  let k := c.counters.countDup b.path
  { ctx := { c with
      counters := { k with
        mismatch := if differs then k.mismatch + 1 else k.mismatch
        skewExceeded := if exceeds then k.skewExceeded + 1 else k.skewExceeded }
      skew := if first then c.skew.measure ticks kept else c.skew }
    disp := .duplicate
    flushed := 0
    events := (if differs then [AlarmKind.mismatch] else []) ++ (if exceeds then [AlarmKind.skew] else []) }

/-- A duplicate of a held record (R28, R33, R37). -/
def Ctx.duplicateOfHeld (limit : Nat) (h : HeldRec) (b : Buffer) (c : Ctx) : Judged :=
  Ctx.countDuplicate limit h.buffer.cell.payloadCheck h.buffer.path h.buffer.stamp (!h.otherSeen) b
    { c with held := markHeldSeen b.cell.seq c.held }

/-- A cell 1 to 64 behind NES is judged by its history position (R36, R37). -/
def Ctx.judgeBehind (limit : Nat) (behind : Nat) (b : Buffer) (c : Ctx) : Judged :=
  match (if behind ≤ Config.historyPlaces then historyAt c.history behind else HistPos.none) with
  | .emitted check path stamp seen =>
    Ctx.countDuplicate limit check path stamp (!seen) b
      { c with history := c.history.set (behind - 1) (.emitted check path stamp true) }
  | _ =>
    { ctx := { c with counters := { c.counters with late := c.counters.late + 1 } }
      disp := .late, flushed := 0, events := [] }

/-- OUT_OF_WINDOW increases (R28, R34). -/
def Ctx.countOutOfWindow (c : Ctx) : Ctx :=
  { c with counters := { c.counters with outOfWindow := c.counters.outOfWindow + 1 } }

/-- The held records counted FLUSHED and gone (R35, R44). -/
def Ctx.flushHeld (c : Ctx) : Ctx :=
  { c with
    held := []
    counters := { c.counters with flushed := c.counters.flushed + BitVec.ofNat 32 c.held.length } }

/-- The emptied context a resync leaves before its trigger cell is tested: UNSEEDED, as it stays when the trigger cell
is refused (R35). -/
def Ctx.resyncEmptied (c : Ctx) : Ctx :=
  { c.flushHeld with
    state := .unseeded
    gapDeadline := none
    history := emptyHistory
    runCount := 0
    counters := { c.flushHeld.counters with resync := c.counters.resync + 1 } }

/-- The resync and its trigger cell, put to the acceptance test in the emptied state after the flushed buffers are
freed (R35). -/
def Ctx.resync (p : Params) (free : Nat) (b : Buffer) (c : Ctx) : Judged :=
  { Ctx.tryAccept p (free + c.held.length) (Ctx.seed p b) c.resyncEmptied with
    flushed := c.held.length
    events := [AlarmKind.resync] }

/-- A cell window or more ahead of NES in RUNNING (R34, R35). -/
def Ctx.judgeFarAhead (p : Params) (free : Nat) (b : Buffer) (c : Ctx) : Judged :=
  if c.runCount + 1 < Config.resyncRun then
    { ctx := { c.countOutOfWindow with runCount := c.runCount + 1 }
      disp := .outOfWindow, flushed := 0, events := [] }
  else Ctx.resync p free b c.countOutOfWindow

/-- The rules for SEEDING (R28). -/
def Ctx.judgeSeeding (p : Params) (limit free : Nat) (b : Buffer) (c : Ctx) : Judged :=
  if seqDist c.nes b.cell.seq < p.window then
    match findHeld c.held b.cell.seq with
    | some h => Ctx.duplicateOfHeld limit h b c
    | none => Ctx.tryAccept p free (Ctx.hold b) c
  else { ctx := c.countOutOfWindow, disp := .outOfWindow, flushed := 0, events := [] }

/-- The rules for RUNNING (R31 to R36). -/
def Ctx.judgeRunning (p : Params) (limit free : Nat) (b : Buffer) (c : Ctx) : Judged :=
  let d := seqDist c.nes b.cell.seq
  if d < p.window then
    match findHeld c.held b.cell.seq with
    | some h => Ctx.duplicateOfHeld limit h b c
    | none => Ctx.tryAccept p free (Ctx.hold b) c
  else if d < 32768 then Ctx.judgeFarAhead p free b c
  else Ctx.judgeBehind limit (65536 - d) b c

/-- A context judges an arrival by its state and gives it one disposition (R25). A context in NONE or DRAINING receives
no arrivals (R24): should one come, it is discarded (assumption 26). -/
def Ctx.judge (p : Params) (limit free : Nat) (b : Buffer) (c : Ctx) : Judged :=
  match c.state with
  | .unseeded => Ctx.tryAccept p free (Ctx.seed p b) c
  | .seeding => Ctx.judgeSeeding p limit free b c
  | .running => Ctx.judgeRunning p limit free b c
  | .none => { ctx := c, disp := .late, flushed := 0, events := [] }
  | .draining => { ctx := c, disp := .late, flushed := 0, events := [] }

/-- The disposition marks the path PRESENT (R51). -/
def Disposition.marks : Disposition → Bool
  | .accepted => true
  | .duplicate => true
  | _ => false

/-! ## Release, gap expiry, end of seeding -/

/-- Releasing the lowest record `h`, the rest of the held set being `rest`: NES advances, the history gains its EMITTED
position, EMITTED and ACCEPTED increase (R39, R47). The gap deadline is set afresh after the run (R32, R58). -/
def Ctx.releaseRec (h : HeldRec) (rest : List HeldRec) (c : Ctx) : Ctx :=
  let k := c.counters.countAccepted h.buffer.path
  { c with
    held := rest
    nes := c.nes + 1
    gapDeadline := none
    history := pushHistory
      (.emitted h.buffer.cell.payloadCheck h.buffer.path h.buffer.stamp h.otherSeen) 1 c.history
    counters := { k with emitted := k.emitted + 1 } }

/-- The gap below the lowest record `h` is given up: its numbers are SKIPPED, LOST increases by how many, NES is the
record's number (R59). -/
def Ctx.giveUpGap (h : HeldRec) (c : Ctx) : Ctx :=
  let k := seqDist c.nes h.buffer.cell.seq
  { c with
    nes := h.buffer.cell.seq
    gapDeadline := none
    history := pushHistory .skipped k c.history
    counters := { c.counters with lost := c.counters.lost + BitVec.ofNat 32 k } }

/-- Seeding ends: RUNNING from the lowest held number, or UNSEEDED when nothing is held (R30). -/
def Ctx.endSeeding (c : Ctx) : Ctx :=
  match c.held with
  | [] => { c with state := .unseeded, seedingStamp := none, seedingDeadline := none }
  | h :: _ =>
    { c with state := .running, nes := h.buffer.cell.seq, seedingStamp := none, seedingDeadline := none,
             gapDeadline := none }

/-- One act of a context that has to settle. -/
inductive Micro where
  /-- Nothing is left to do. -/
  | stay (c : Ctx)
  /-- A deadline just computed was past: the gap was given up (`lost`) or the seeding ended. -/
  | move (c : Ctx) (lost : Bool)
  /-- The lowest record, at NES, was released. -/
  | release (c : Ctx) (b : Buffer)
deriving DecidableEq, Repr

/-- The next act of a context at `now`. In RUNNING the record at NES is released; above a gap the gap deadline is
computed, and when that changes it and it is past it is reached at once (R32, R56 to R59). In SEEDING the same holds
of the seeding deadline (R29, R30), whether anything is held or not (assumption 30). A deadline that the computation
leaves unchanged is not tested here: GAP_EXPIRY and SEEDING_DEADLINE test it (assumption 13). -/
def Ctx.micro (p : Params) (now : Time) (c : Ctx) : Micro :=
  match c.state with
  | .running =>
    match c.held with
    | [] => .stay { c with gapDeadline := none }
    | h :: rest =>
      if h.buffer.cell.seq = c.nes then .release (c.releaseRec h rest) h.buffer
      else
        let hold := c.applicableHold p
        let d := deadlineAt hold h.buffer.stamp
        if c.gapDeadline = some d then .stay c
        else if deadlineReached hold now h.buffer.stamp then .move (c.giveUpGap h) true
        else .stay { c with gapDeadline := some d }
  | .seeding =>
    match c.seedingStamp with
    | none => .stay c
    | some stamp =>
      let hold := c.applicableHold p
      let d := deadlineAt hold stamp
      if c.seedingDeadline = some d then .stay c
      else if deadlineReached hold now stamp then .move c.endSeeding false
      else .stay { c with seedingDeadline := some d }
  | _ => .stay c

/-- The buffer as release writes it: the out-label, and under RENUMBER the renumber counter (R39, R41). -/
def relabelled (e : Entry) (renumber : Seq) (b : Buffer) : Buffer :=
  { b with cell := { b.cell with
      label := e.outLabel
      seq := if e.renumber then renumber else b.cell.seq } }

/-- A released buffer joins the tail of the output queue (R39), and under RENUMBER the counter advances (R41). -/
def Ctx.enqueue (e : Entry) (b : Buffer) (c : Ctx) : Ctx :=
  { c with
    queue := c.queue ++ [relabelled e c.renumber b]
    renumber := if e.renumber then c.renumber + 1 else c.renumber }

/-- What settling gives: the context after it, the buffers released in their order, and whether a gap was given up. -/
structure Settled where
  ctx : Ctx
  released : List Buffer
  lost : Bool
deriving DecidableEq, Repr

/-- A context settles: its in-order run is released and deadlines computed past are reached, as one change of its record
(R40, R58, R59, R174). -/
def Ctx.settleRun (p : Params) (now : Time) : Nat → Ctx → Settled
  | 0, c => { ctx := c, released := [], lost := false }
  | fuel + 1, c =>
    match c.micro p now with
    | .stay c' => { ctx := c', released := [], lost := false }
    | .move c' lost => let r := Ctx.settleRun p now fuel c'; { r with lost := lost || r.lost }
    | .release c' b => let r := Ctx.settleRun p now fuel c'; { r with released := b :: r.released }

/-- Enough acts for a context to settle: two for each held record, one end of seeding, one last look. -/
def Ctx.settleFuel (c : Ctx) : Nat := 2 * c.held.length + 2

/-- The released buffers join the tail of the output queue in their order (R39, R40). -/
def Ctx.enqueueAll (e : Entry) (released : List Buffer) (c : Ctx) : Ctx := released.foldl (fun d b => d.enqueue e b) c

/-- A flow context settles, what it releases joining its queue (R39, R40). Answers with whether a gap was given up. -/
def Ctx.settle (e : Entry) (now : Time) (c : Ctx) : Ctx × Bool :=
  let r := c.settleRun (Params.ofEntry e) now c.settleFuel
  (r.ctx.enqueueAll e r.released, r.lost)

/-- The gap deadline is reached at `now` (R56, R59). -/
def Ctx.gapDue (p : Params) (now : Time) (c : Ctx) : Bool :=
  match c.state, c.held with
  | .running, h :: _ => deadlineReached (c.applicableHold p) now h.buffer.stamp
  | _, _ => false

/-- The gap below the lowest held record, if any, is given up (R59). -/
def Ctx.giveUpLowest (c : Ctx) : Ctx :=
  match c.held with
  | [] => c
  | h :: _ => c.giveUpGap h

/-- The seeding deadline is reached at `now` (R30, R56). -/
def Ctx.seedingDue (p : Params) (now : Time) (c : Ctx) : Bool :=
  match c.state, c.seedingStamp with
  | .seeding, some stamp => deadlineReached (c.applicableHold p) now stamp
  | _, _ => false

/-! ## What commits and resets do to a context -/

/-- The releases of a commit release: each gap given up, each record released, until the held set is empty; `e` is the
old entry (R141). -/
def Ctx.releaseAll (e : Entry) : List HeldRec → Ctx → Ctx
  | [], c => c
  | h :: rest, c =>
    Ctx.releaseAll e rest (((c.giveUpGap h).releaseRec h rest).enqueue e h.buffer)

/-- The commit release of R141, under the old entry. In SEEDING it starts from the lowest held number, as at the end of
seeding; in UNSEEDED nothing is held. Answers with whether numbers were given up. -/
def Ctx.commitRelease (e : Entry) (c : Ctx) : Ctx × Bool :=
  let c0 := if c.state = .seeding then c.endSeeding else c
  let c1 := Ctx.releaseAll e c0.held c0
  ({ c1 with gapDeadline := none, seedingDeadline := none }, c1.counters.lost != c.counters.lost)

/-- The context of an entry that turns valid, or whose in-label is replaced, once its held cells are gone: UNSEEDED for
the new flow, its queue kept (R140, R143). -/
def Ctx.newFlow (cls : Fin 8) (c : Ctx) : Ctx := { Ctx.fresh .unseeded cls with queue := c.queue }

/-- The context of an entry that turned invalid, after the commit release (R142). -/
def Ctx.retire (c : Ctx) : Ctx :=
  { c with
    state := if c.queue.isEmpty then .none else .draining
    seedingStamp := none
    seedingDeadline := none
    gapDeadline := none
    runCount := 0
    presA := c.presA.drop
    presB := c.presB.drop }

/-- The new policy, hold or lone hold reaches the context: presence is brought into line with the policy, and both
deadlines are taken away, so that settling computes the one the state has anew and reaches it at once if it is past, even
where its value comes out as it was (R145). -/
def Ctx.takePolicy (policy : Policy) (c : Ctx) : Ctx :=
  { c.alignPresence policy with seedingDeadline := none, gapDeadline := none }

/-- The held records a smaller window no longer covers (R144). -/
def Ctx.beyond (window : Nat) (c : Ctx) : List HeldRec :=
  c.held.filter (fun h => decide (window ≤ seqDist c.nes h.buffer.cell.seq))

/-- The held set under a smaller window, the records beyond it flushed (R144). -/
def Ctx.shrinkWindow (window : Nat) (c : Ctx) : Ctx :=
  { c with
    held := c.held.filter (fun h => decide (seqDist c.nes h.buffer.cell.seq < window))
    counters := { c.counters with
      flushed := c.counters.flushed + BitVec.ofNat 32 (c.beyond window).length } }

/-- What RESET_FLOW does to the context (R44). -/
def Ctx.resetFlow (c : Ctx) : Ctx :=
  { c.flushHeld with
    state := .unseeded
    nes := 0
    seedingStamp := none
    seedingDeadline := none
    gapDeadline := none
    history := emptyHistory
    runCount := 0
    renumber := 0 }

/-- The flow context a reset leaves for an ACTIVE entry (R49). -/
def Ctx.restart (e : Entry) : Ctx := Ctx.fresh (if e.valid then .unseeded else .none) e.cls

/-- The flow counts toward FLOW_UNPROTECTED (R64). -/
def Ctx.unprotected (e : Entry) (c : Ctx) : Bool :=
  decide (c.state = .running) && decide (e.policy = .both) && (c.presA.present != c.presB.present)

/-- The flow counts toward FLOW_SILENT (R65). -/
def Ctx.silent (c : Ctx) : Bool :=
  decide (c.state = .running) && !c.presA.present && !c.presB.present

end Sys2Proof.Machine
end

