-- ==== Sys2Proof/Machine/Operands.lean ====
section
/-! DEFINITION. The operands of the management commands: command and status codes, the decoding of argument bytes
(R203) and the encoding of result bytes (sections 12.2 to 12.4). -/

namespace Sys2Proof.Machine

open Sys2Proof

/-! ## Codes -/

/-- The command codes that name a command (section 12.2); NOTIFY, 0x7F, is a reply code only. -/
def commandCodes : List Byte :=
  [0x01, 0x02, 0x10, 0x11, 0x12, 0x13, 0x14, 0x18, 0x19, 0x20, 0x21, 0x24, 0x25, 0x28, 0x29, 0x2C, 0x2D, 0x30, 0x38,
   0x39, 0x3C]

/-- The code of a notification (section 12.2). -/
def notifyCode : Byte := 0x7F

/-- The code of COMMIT (section 12.2). -/
def commitCode : Byte := 0x18

/-- The code of SAVE (section 12.2). -/
def saveCode : Byte := 0x38

/-- The argument of RESTART that names FULL (section 12.2). -/
def restartFullKind : Byte := 0xF1

/-- The code of a status (section 12.2). -/
def Status.code : Status → Byte
  | .ok => 0
  | .badCommand => 1
  | .badArgument => 2
  | .commitPending => 3
  | .validationFailed => 4
  | .storeBusy => 5
  | .storeEmpty => 6
  | .storeFailed => 7

/-- The flag REPLY of a management payload (section 12.2). -/
def replyFlag : Byte := 0x80

/-- The flag OVERRUN of a reply (section 12.2). -/
def overrunFlag : Byte := 0x02

/-- The flag INTEGRITY of a reply (section 12.2). -/
def integrityFlag : Byte := 0x01

/-! ## Decoding arguments -/

/-- Argument byte `i` of a command. -/
def Command.arg (c : Command) (i : Nat) : Byte := byteAt c.args i

/-- The two-byte argument whose first byte is argument byte `i`. -/
def Command.arg16 (c : Command) (i : Nat) : BitVec 16 := wordAt c.args i

/-- A clear option: zero means do not clear (R162). -/
def Command.clears (c : Command) (i : Nat) : Bool := c.arg i != 0

/-- A byte that encodes no or yes, off or on, KEEP or RENUMBER (section 12.3). -/
def decodeFlag (b : Byte) : Option Bool := if b = 0 then some false else if b = 1 then some true else none

/-- A label pair, 0 to 4094 (section 12.3). -/
def decodeLabel (w : BitVec 16) : Option Label := if w.toNat ≤ 4094 then some (w.truncate 12) else none

/-- A path policy byte (section 12.3). -/
def decodePolicy (b : Byte) : Option Policy :=
  if b = 0 then some .both else if b = 1 then some .aOnly else if b = 2 then some .bOnly else none

/-- A window code (section 12.3). -/
def decodeWindow (b : Byte) : Option Window :=
  if b = 0 then some .w16 else if b = 1 then some .w32 else if b = 2 then some .w64
  else if b = 3 then some .w128 else if b = 4 then some .w256 else none

/-- A class byte, 0 to 7 (section 12.3). -/
def decodeClass (b : Byte) : Option (Fin 8) := if h : b.toNat < 8 then some ⟨b.toNat, h⟩ else none

/-- A slot byte: 0 to 7 a class, 0xFF IDLE (section 12.3). -/
def decodeSlot (b : Byte) : Option Slot := if b = 0xFF then some .idle else (decodeClass b).map Slot.cls

/-- A Flow Table index, 0 to 127 (R10). -/
def decodeIndex (b : Byte) : Option Index := if h : b.toNat < 128 then some ⟨b.toNat, h⟩ else none

/-- A two-byte field of at least 1 (R1, R11). -/
def decodePositive (w : BitVec 16) : Option (BitVec 16) := if w = 0 then none else some w

/-- A quota, 1 to 2,048 (R1). -/
def decodeQuota (w : BitVec 16) : Option (BitVec 16) := if w = 0 ∨ 2048 < w.toNat then none else some w

/-- The sixteen bytes of an entry that begin at byte `i`; none when a field holds no value of its range (R1, R203). -/
def decodeEntry (bytes : List Byte) (i : Nat) : Option Entry :=
  match decodeFlag (byteAt bytes i), decodeLabel (wordAt bytes (i + 1)), decodeLabel (wordAt bytes (i + 3)),
        decodePolicy (byteAt bytes (i + 5)), decodeWindow (byteAt bytes (i + 6)),
        decodePositive (wordAt bytes (i + 7)), decodeQuota (wordAt bytes (i + 11)),
        decodeClass (byteAt bytes (i + 13)), decodeFlag (byteAt bytes (i + 14)), decodeFlag (byteAt bytes (i + 15)) with
  | some valid, some inLabel, some outLabel, some policy, some window, some hold, some quota, some cls, some renumber,
    some restamp =>
    some { valid := valid, inLabel := inLabel, outLabel := outLabel, policy := policy, window := window, hold := hold,
           loneHold := wordAt bytes (i + 9), quota := quota, cls := cls, renumber := renumber, restamp := restamp }
  | _, _, _, _, _, _, _, _, _, _ => none

/-- `n` slot bytes that begin at byte `i`; none when one names neither a class nor IDLE (R132, R203). -/
def decodeSlots (bytes : List Byte) : Nat → Nat → Option (List Slot)
  | _, 0 => some []
  | i, n + 1 =>
    match decodeSlot (byteAt bytes i), decodeSlots bytes (i + 1) n with
    | some slot, some rest => some (slot :: rest)
    | _, _ => none

/-- A set of alarm kinds: bits 12 to 15 name no kind and are not read (R203). -/
def decodeKinds (w : BitVec 16) : AlarmSet := w.truncate 12

/-- The Settings record in argument bytes 0 to 9; none when a field is out of range (R11, R203). -/
def decodeSettings (bytes : List Byte) : Option Settings :=
  let timeout := wordAt bytes 0
  if timeout = 0 ∨ 1000 < timeout.toNat then none
  else
    match decodePositive (wordAt bytes 2), decodePositive (wordAt bytes 4) with
    | some hold, some limit =>
      some { pathTimeout := timeout, managementHold := hold, skewLimit := limit,
             alarmMask := decodeKinds (wordAt bytes 6), notifyMask := decodeKinds (wordAt bytes 8) }
    | _, _ => none

/-- The bank a bank byte names: 0 ACTIVE, 1 PENDING (section 12.3). -/
def Tables.bank (t : Tables) (b : Byte) : Option Bank :=
  if b = 0 then some t.active else if b = 1 then some t.pendingBank else none

/-! ## Encoding results -/

/-- A flag as one byte. -/
def encodeFlag (b : Bool) : Byte := if b then 1 else 0

/-- A value of two bytes. -/
def encode16 (v : Nat) : List Byte := beBytes 2 v

/-- A counter, four bytes (section 12.4). -/
def encodeCount (c : Count) : List Byte := beBytes 4 c.toNat

/-- A Time Base value or stamp, six bytes (section 12.4). -/
def encodeTime (t : Time) : List Byte := beBytes 6 t.toNat

/-- A set of alarm kinds, two bytes, bits 12 to 15 zero (section 12.3, R203). -/
def encodeKinds (a : AlarmSet) : List Byte := beBytes 2 a.toNat

/-- A policy byte (section 12.3). -/
def Policy.byte : Policy → Byte
  | .both => 0
  | .aOnly => 1
  | .bOnly => 2

/-- A window code (section 12.3). -/
def Window.byte : Window → Byte
  | .w16 => 0
  | .w32 => 1
  | .w64 => 2
  | .w128 => 3
  | .w256 => 4

/-- The sixteen bytes of an entry (section 12.3). -/
def encodeEntry (e : Entry) : List Byte :=
  [encodeFlag e.valid] ++ encode16 e.inLabel.toNat ++ encode16 e.outLabel.toNat ++ [e.policy.byte, e.window.byte]
    ++ encode16 e.hold.toNat ++ encode16 e.loneHold.toNat ++ encode16 e.quota.toNat
    ++ [BitVec.ofNat 8 e.cls.val, encodeFlag e.renumber, encodeFlag e.restamp]

/-- A slot byte (section 12.3). -/
def encodeSlot : Slot → Byte
  | .idle => 0xFF
  | .cls c => BitVec.ofNat 8 c.val

/-- The Calendar header, two bytes (section 12.3). -/
def encodeHeader (cal : Calendar) : List Byte := [BitVec.ofNat 8 cal.length, encodeFlag cal.lend]

/-- The Settings record, ten bytes (section 12.3). -/
def encodeSettings (t : Settings) : List Byte :=
  encode16 t.pathTimeout.toNat ++ encode16 t.managementHold.toNat ++ encode16 t.skewLimit.toNat
    ++ encodeKinds t.alarmMask ++ encodeKinds t.notifyMask

/-- A receiver state's code (section 12.4). -/
def RxState.byte : RxState → Byte
  | .down => 0
  | .hunt => 1
  | .check => 2
  | .up => 3

/-- A context state's code (section 12.4). -/
def CtxState.byte : CtxState → Byte
  | .none => 0
  | .unseeded => 1
  | .seeding => 2
  | .running => 3
  | .draining => 4

/-- The commit state's code (section 12.4). -/
def CommitState.byte : CommitState → Byte
  | .none => 0
  | .outstanding _ => 1

/-- The store state's code (section 12.4). -/
def StoreState.byte : StoreState → Byte
  | .idle => 0
  | .writing _ _ => 1

/-- A path's code, 0 for none (section 12.4). -/
def encodePath : Option Path → Byte
  | none => 0
  | some .a => 1
  | some .b => 2

/-- Presence, stamp kept and the stamp: eight bytes (section 12.4, group 2). -/
def encodePresence (r : Presence) : List Byte :=
  [encodeFlag r.present] ++
    (match r.last with
     | some stamp => [1] ++ encodeTime stamp
     | none => [0] ++ encodeTime 0)

/-- The items of a GET_COUNTERS group, from result byte 11 (R166, section 12.4). Context M's queue is empty and its
serving class 0, so it is reported as R166 states. -/
def Ctx.groupBytes (c : Ctx) (group : Byte) : List Byte :=
  let k := c.counters
  if group = 0 then
    [k.acceptedA, k.acceptedB, k.dupA, k.dupB, k.late, k.outOfWindow, k.quotaDrop, k.noBuffer].flatMap encodeCount
  else if group = 1 then
    [k.lost, k.mismatch, k.skewExceeded, k.emitted, k.flushed, k.resync, k.correctionSaturated, c.skew.last,
      c.skew.max].flatMap encodeCount ++ [encodePath c.skew.leading]
  else
    encodePresence c.presA ++ encodePresence c.presB ++ encode16 c.held.length ++ encode16 c.queue.length
      ++ [BitVec.ofNat 8 c.servingClass.val]

/-- What the clear option of GET_COUNTERS clears in a group (R166). -/
def Ctx.clearGroup (group : Byte) (c : Ctx) : Ctx :=
  if group = 0 then
    { c with counters := { c.counters with
        acceptedA := 0, acceptedB := 0, dupA := 0, dupB := 0, late := 0, outOfWindow := 0, quotaDrop := 0,
        noBuffer := 0 } }
  else if group = 1 then
    { c with
      counters := { c.counters with
        lost := 0, mismatch := 0, skewExceeded := 0, emitted := 0, flushed := 0, resync := 0,
        correctionSaturated := 0 }
      skew := SkewRecord.zero }
  else c

/-- The eight counters of a path in the order of R167. -/
def PathCounters.bytes (k : PathCounters) : List Byte :=
  [k.cellsReceived, k.headerErrors, k.formatErrors, k.payloadErrors, k.cellsCut, k.upEntries, k.unmatched,
    k.ignoredPath].flatMap encodeCount

/-- The counters of a GET_DEVICE_COUNTERS group; none for a group above 2 (R167). -/
def DeviceCounters.groupBytes (d : DeviceCounters) (group : Byte) : List Byte :=
  if group = 0 then d.a.bytes
  else if group = 1 then d.b.bytes
  else if group = 2 then [d.strayOverflow, d.idleSent, d.notForMe, d.overrun].flatMap encodeCount
  else []

/-- What the clear option of GET_DEVICE_COUNTERS clears in a group (R167). -/
def DeviceCounters.clearGroup (group : Byte) (d : DeviceCounters) : DeviceCounters :=
  if group = 0 then { d with a := PathCounters.zero }
  else if group = 1 then { d with b := PathCounters.zero }
  else if group = 2 then { d with strayOverflow := 0, idleSent := 0, notForMe := 0, overrun := 0 }
  else d

/-- One Stray Label List record, thirteen bytes (section 12.4). -/
def encodeStray (r : Stray) : List Byte :=
  encode16 r.label.toNat ++ [encodePath (some r.firstSeen)] ++ encodeCount r.count ++ encodeTime r.last

/-- The parts of a saved image as bytes, over which its integrity check is computed: generation, Flow Table, Calendar,
Settings, each in the encoding of sections 12.3 and 12.4 (R187; the encoding and its order are assumption 16). -/
def imageBytes (generation : Count) (bank : Bank) (settings : Settings) : List Byte :=
  encodeCount generation ++ bank.entries.flatMap encodeEntry ++ encodeHeader bank.calendar
    ++ bank.calendar.slots.map encodeSlot ++ encodeSettings settings

/-- A slot number and a generation, the result of SAVE and LOAD (section 12.4). -/
def encodeImage (slot : Bool) (generation : Count) : List Byte := [encodeFlag slot] ++ encodeCount generation

end Sys2Proof.Machine
end

