-- ==== Sys2Proof/Machine/Ops.lean ====
section
/-! DEFINITION. The operations over the whole state that the commands share: time, receivers and device counters, the
Buffer Pool, contexts and class rings, the Classifier, the presence changes that reach every context, the two resets,
and the round boundary of a commit. -/

namespace Sys2Proof.Machine

open Sys2Proof

/-! ## Time and phase -/

/-- The Time Base counts: the reset is released (R100). -/
def Phase.counting : Phase → Bool
  | .starting => true
  | .active => true
  | _ => false

/-- `ticks` ticks pass; while the part is held in reset the Time Base stays at 0 (R99, R100). -/
def State.advance (ticks : Time) (s : State) : State :=
  if s.phase.counting then { s with timeBase := s.timeBase + ticks } else s

/-! ## Receivers and device counters -/

/-- The receiver of a path. -/
def State.rx (s : State) : Path → Receiver
  | .a => s.rxA
  | .b => s.rxB

/-- Writes the receiver of a path. -/
def State.setRx (p : Path) (r : Receiver) (s : State) : State :=
  match p with
  | .a => { s with rxA := r }
  | .b => { s with rxB := r }

/-- The device counters of a path. -/
def DeviceCounters.path (d : DeviceCounters) : Path → PathCounters
  | .a => d.a
  | .b => d.b

/-- Changes the device counters of a path. -/
def State.countPath (p : Path) (f : PathCounters → PathCounters) (s : State) : State :=
  match p with
  | .a => { s with device := { s.device with a := f s.device.a } }
  | .b => { s with device := { s.device with b := f s.device.b } }

/-! ## The Buffer Pool -/

/-- One buffer leaves the free list; the low-water mark and POOL_EMPTY follow (R69, R78, R79). -/
def State.allocBuffer (s : State) : State :=
  let free := s.pool.free - 1
  State.report .poolEmpty (free == 0)
    { s with pool := { free := free, lowWater := min s.pool.lowWater free } }

/-- `n` buffers return to the free list; POOL_EMPTY ceases with the first (R69, R78). -/
def State.freeBuffers (n : Nat) (s : State) : State :=
  if n = 0 then s else State.report .poolEmpty false { s with pool := { s.pool with free := s.pool.free + n } }

/-! ## Tables, contexts and rings -/

/-- Entry `n` of a bank. -/
def Bank.entry (bank : Bank) (n : Index) : Entry := bank.entries.getD n.val Entry.default

/-- Position `i` of a Calendar. -/
def Calendar.slot (cal : Calendar) (i : Nat) : Slot := cal.slots.getD i .idle

/-- The ACTIVE entry at an index (R8). -/
def State.entry (s : State) (n : Index) : Entry := s.tables.active.entry n

/-- Flow context `n` (R10). -/
def State.flow (s : State) (n : Index) : Ctx := s.flows.getD n.val (Ctx.fresh .none 0)

/-- Writes flow context `n`. -/
def State.setFlow (n : Index) (c : Ctx) (s : State) : State := { s with flows := s.flows.set n.val c }

/-- A context by its name. -/
def State.ctx (s : State) : ContextId → Ctx
  | .flow n => s.flow n
  | .m => s.m

/-- The class ring of a class (R83). -/
def State.ring (s : State) (k : Fin 8) : List Index := s.sched.rings.getD k.val []

/-- Writes the class ring of a class. -/
def State.setRing (k : Fin 8) (ring : List Index) (s : State) : State :=
  { s with sched := { s.sched with rings := s.sched.rings.set k.val ring } }

/-- The flow joins the tail of a class ring (R84). -/
def State.joinRing (k : Fin 8) (n : Index) (s : State) : State := s.setRing k (s.ring k ++ [n])

/-- The flow leaves a class ring, the order of the others unchanged (R86). -/
def State.leaveRing (k : Fin 8) (n : Index) (s : State) : State := s.setRing k ((s.ring k).filter (· != n))

/-- Writes flow context `n`, and the flow joins the ring of its serving class when its queue turns from empty to
non-empty (R84). -/
def State.putFlow (n : Index) (c : Ctx) (s : State) : State :=
  if (s.flow n).queue.isEmpty && !c.queue.isEmpty then (s.setFlow n c).joinRing c.servingClass n
  else s.setFlow n c

/-- The path timeout in ticks (R104). -/
def Settings.timeoutTicks (t : Settings) : Nat := t.pathTimeout.toNat * Config.ticksPerMilli

/-- The skew limit in ticks (R104). -/
def Settings.skewTicks (t : Settings) : Nat := t.skewLimit.toNat * Config.ticksPerMicro

/-- Context M's parameters as Settings stand (R46). -/
def State.mParams (s : State) : Params := Params.ofSettings s.tables.settings

/-- The parameters of a context as its ACTIVE entry or Settings stand (R21, R46). -/
def State.params (s : State) : ContextId → Params
  | .flow n => Params.ofEntry (s.entry n)
  | .m => s.mParams

/-- Flow context `n` becomes `c` and settles: runs released, deadlines computed past reached, its ring joined, LOSS
latched when a gap was given up (R40, R58, R59, R84). -/
def State.settleFlow (n : Index) (c : Ctx) (s : State) : State :=
  let r := Ctx.settle (s.entry n) s.timeBase c
  let s' := s.putFlow n r.1
  if r.2 then s'.latch .loss else s'

/-- Applies a change to every flow context, in increasing order of index. Outside a commit, where R138 gives that order,
it shows in the order flows join a class ring and is the model's choice (assumption 29). -/
def State.forFlows (f : Index → State → State) (s : State) : State :=
  (List.finRange 128).foldl (fun t n => f n t) s

/-- The Merge Engine reports FLOW_UNPROTECTED and FLOW_SILENT as they now stand; context M is not considered
(R64, R65). -/
def State.reportFlows (s : State) : State :=
  let unprotected := (List.finRange 128).any (fun n => (s.flow n).unprotected (s.entry n))
  let silent := (List.finRange 128).any (fun n => (s.flow n).silent)
  (s.report .flowUnprotected unprotected).report .flowSilent silent

/-! ## Changes that reach contexts -/

/-- Flow context `n` is changed and settles, and the flow conditions are reported (R57, R64, R65). -/
def State.changeFlow (n : Index) (f : Ctx → Ctx) (s : State) : State :=
  (s.settleFlow n (f (s.flow n))).reportFlows

/-- A path becomes ABSENT in every context at once, each recomputing its deadlines (R53, R126). Context M's applicable
hold does not follow presence (R55), so its deadline stands. Where several flows of one class release, they join its ring
in increasing order of index, the model's choice (R60, R84, assumption 29). -/
def State.pathAbsent (p : Path) (s : State) : State :=
  (State.forFlows (fun n t => t.settleFlow n ((t.flow n).markAbsent p)) { s with m := s.m.markAbsent p }).reportFlows

/-- Every presence record under a new path timeout (R52). Where several flows of one class release, they join its ring in
increasing order of index, the model's choice (R60, R84, assumption 29). -/
def State.retimeAll (s : State) : State :=
  let timeout := s.tables.settings.timeoutTicks
  (State.forFlows (fun n t => t.settleFlow n ((t.flow n).retime timeout t.timeBase))
    { s with m := s.m.retime timeout s.timeBase }).reportFlows

/-- The Settings record is written, with the consequences of a new path timeout; every later use reads the new values
(R11, R52). A new management hold reaches context M's deadline when the agent has settled (R57). -/
def State.writeSettings (t : Settings) (s : State) : State :=
  let s' := { s with tables := { s.tables with settings := t } }
  if t.pathTimeout = s.tables.settings.pathTimeout then s' else s'.retimeAll

/-- The buffers an arrival moves: flushed ones are freed first, then an accepted cell takes one (R35, R70, R73). -/
def State.moveBuffers (j : Judged) (s : State) : State :=
  if j.disp = .accepted then (s.freeBuffers j.flushed).allocBuffer else s.freeBuffers j.flushed

/-- The context after an arrival with this disposition: PRESENT on the path of an accepted or duplicate cell whose
receiver is UP (R51). The path is marked before the context settles, so the seeding or gap deadline that the arrival sets
is computed with the path PRESENT: the rules give no order of the two, and this one is the model's (assumption 27). -/
def State.markArrival (b : Buffer) (j : Judged) (s : State) : Ctx :=
  if j.disp.marks && decide ((s.rx b.path).state = .up) then
    j.ctx.markPresent b.path s.tables.settings.timeoutTicks b.stamp
  else j.ctx

/-- An arrival handed to flow context `n` (R25): judged, its path marked PRESENT, and then settled, which computes the
seeding or gap deadline (R27, R29, R33, R51, R56). That the marking comes before the deadline is assumption 27. -/
def State.arriveFlow (n : Index) (b : Buffer) (s : State) : State :=
  let j := (s.flow n).judge (Params.ofEntry (s.entry n)) s.tables.settings.skewTicks s.pool.free b
  (((s.moveBuffers j).latchAll j.events).settleFlow n (s.markArrival b j)).reportFlows

/-! ## The Classifier -/

/-- The valid ACTIVE entry that carries a label, if any (R13, R8). -/
def Bank.lookup (bank : Bank) (label : Label) : Option Index :=
  (List.finRange 128).find? (fun n => (bank.entry n).valid && (bank.entry n).inLabel == label)

/-- An offer of a label to the Stray Label List; `none` when it is full and holds no record of the label (R16). -/
def offerStray (label : Label) (p : Path) (stamp : Time) (strays : List Stray) : Option (List Stray) :=
  if strays.any (fun r => r.label == label) then
    some (strays.map (fun r => if r.label == label then { r with count := r.count + 1, last := stamp } else r))
  else if strays.length < Config.strayPlaces then
    some (strays ++ [{ label := label, firstSeen := p, count := 1, last := stamp }])
  else none

/-- An unmatched cell: counted, and offered to the Stray Label List (R14, R16, R20). -/
def State.unmatched (label : Label) (p : Path) (stamp : Time) (s : State) : State :=
  let s1 := s.countPath p (fun k => { k with unmatched := k.unmatched + 1 })
  match offerStray label p stamp s.strays with
  | some strays => { s1 with strays := strays }
  | none => { s1 with device := { s1.device with strayOverflow := s1.device.strayOverflow + 1 } }

/-! ## The store's slots -/

/-- An image is newer than another: its generation minus the other's lies from 1 to 2^31 − 1, modulo 2^32 (R188). -/
def newerGeneration (g other : Count) : Bool :=
  decide (1 ≤ (g - other).toNat) && decide ((g - other).toNat ≤ 2147483647)

/-- The image a write forms from these parts: its integrity check is computed over them (R187). -/
def Image.form (generation : Count) (bank : Bank) (settings : Settings) : Image :=
  { generation := generation, bank := bank, settings := settings,
    check := Config.integrityCheck (imageBytes generation bank settings) }

/-- The integrity check an image holds matches its other contents (R187). -/
def Image.intact (i : Image) : Bool := i.check == Config.integrityCheck (imageBytes i.generation i.bank i.settings)

/-- A slot as the store judges it at its next consultation: its image when the check matches and the contents have not
decayed, else INVALID (R187, assumption 16). -/
def Store.judgeSlot (store : Store) (slot : Bool) (contents : Option Image) : Option Image :=
  contents.filter (fun i => i.intact && !Config.slotDecayed store.consultations slot)

/-- The store consults its slots and judges the validity of both afresh: at the load of the STARTING phase, at the
execution of a SAVE that chooses a slot, and at the execution of a LOAD (R187). An INVALID slot's contents are read by
nothing from then on. -/
def Store.consult (store : Store) : Store :=
  { store with
    slot0 := store.judgeSlot false store.slot0
    slot1 := store.judgeSlot true store.slot1
    consultations := store.consultations + 1 }

/-- The newest valid image and its slot (false: slot 0, true: slot 1) of a store that has judged its slots; none when it
is empty (R188). -/
def Store.newest (store : Store) : Option (Bool × Image) :=
  match store.slot0, store.slot1 with
  | some i0, some i1 => if newerGeneration i1.generation i0.generation then some (true, i1) else some (false, i0)
  | some i0, none => some (false, i0)
  | none, some i1 => some (true, i1)
  | none, none => none

/-- Writes a slot: an image, or none to leave it INVALID. -/
def Store.setSlot (slot : Bool) (image : Option Image) (store : Store) : Store :=
  if slot then { store with slot1 := image } else { store with slot0 := image }

/-- A write in progress is abandoned: its slot is INVALID and the store IDLE (R193). -/
def Store.abandon (store : Store) : Store :=
  match store.state with
  | .idle => store
  | .writing slot _ => { store.setSlot slot none with state := .idle }

/-! ## The two resets -/

/-- A receiver whose reset is released leaves DOWN as soon as its line carries signal (R112, R195). -/
def Receiver.released (r : Receiver) : Receiver :=
  if r.signal && decide (r.state = .down) then { r with state := .hunt } else r

/-- A full reset is applied: every block takes its full-reset value (section 11.6). The retained slots stand, a write
in progress is abandoned (R193), the line stages complete their cells (R96, R131), and the outside (the ADDR pins, the
signal of the lines, the waiting steps) is not the part's to change. Before the load instant the banks stand at their
defaults and every flow context at NONE (assumption 4). -/
def State.fullReset (phase : Phase) (s : State) : State :=
  { State.reset with
    pending := s.pending
    phase := phase
    addrPins := s.addrPins
    rxA := Receiver.down s.rxA.signal
    rxB := Receiver.down s.rxB.signal
    out := { buffer := none, line := s.out.line }
    ret := { line := s.ret.line, seq := 0 }
    store := s.store.abandon }

/-- A full reset is released: the strap address is sampled, the Time Base counts from 0, the receivers leave DOWN where
there is signal, and the STARTING phase begins (R151, R195, R196). -/
def State.releaseReset (addr : BitVec 5) (s : State) : State :=
  { s with
    phase := .starting
    timeBase := 0
    addrPins := addr
    rxA := s.rxA.released
    rxB := s.rxB.released
    agent := { s.agent with strap := addr } }

/-- Every flow context as a reset leaves it, from a bank's entries (R49). -/
def Bank.freshFlows (bank : Bank) : List Ctx := (List.finRange 128).map (fun n => Ctx.restart (bank.entry n))

/-- A traffic restart is applied: the contexts, the pool, the Scheduler, the device counters and the Stray Label List
(R200); POOL_EMPTY and the flow conditions cease (R186). -/
def State.trafficRestart (s : State) : State :=
  let s1 := { s with
    flows := s.tables.active.freshFlows
    m := Ctx.fresh .unseeded 0
    pool := { free := Config.poolSize, lowWater := Config.poolSize }
    sched := { position := 0, slotUsed := false, rings := List.replicate 8 [] }
    out := { s.out with buffer := none }
    device := DeviceCounters.zero
    strays := [] }
  (s1.report .poolEmpty false).reportFlows

/-- The load instant: the slots are judged (R187), and both banks and the Settings take the newest valid image, or the
defaults with STORE_EMPTY latched; the contexts are set from the ACTIVE bank; the STARTING phase ends, and the
notification-pending flag is set if a latched kind is enabled (R12, R49, R161, R196, R197). No flow is RUNNING then
(R66). -/
def State.loadInstant (s : State) : State :=
  let store := s.store.consult
  let bank := match store.newest with | some (_, i) => i.bank | none => Bank.default
  let settings := match store.newest with | some (_, i) => i.settings | none => Settings.default
  let s1 := { s with
    phase := .active
    tables := { active := bank, pendingBank := bank, settings := settings, commit := .none }
    flows := bank.freshFlows
    store := store }
  let s2 := State.reportFlows (if store.newest.isNone then s1.latch .storeEmpty else s1)
  if (s2.alarms.latched &&& settings.notifyMask) != 0 then { s2 with agent := { s2.agent with notifyPending := true } }
  else s2

end Sys2Proof.Machine
end

