-- ==== Sys2Proof/Machine/Queues.lean ====
section
/-! DEFINITION. The Management Agent's two queues: forming and placing replies, reserving and filling places, receiving
commands, taking a reply (R152 to R157, R128). -/

namespace Sys2Proof.Machine

open Sys2Proof

/-- A reply place is free: neither occupied nor reserved (R154). -/
def Agent.placeFree (g : Agent) : Bool := decide (g.replies.length < Config.replyPlaces)

/-- The source address of a reply: the strap address (R151, R155). -/
def Agent.source (g : Agent) : Byte := g.strap.zeroExtend 8

/-- A place joins the tail of the reply queue (R157). -/
def State.addPlace (p : Place) (s : State) : State :=
  { s with agent := { s.agent with replies := s.agent.replies ++ [p] } }

/-- The reply to a command (R155). -/
def Agent.reply (g : Agent) (c : Command) (status : Status) (result : List Byte) : Reply :=
  { source := g.source, tag := c.tag, code := c.code, status := status, result := result, restartsFull := false }

/-- A command is answered at its execution: its reply joins the tail of the reply queue (R156). -/
def State.answer (c : Command) (status : Status) (result : List Byte) (s : State) : State :=
  s.addPlace (.filled (s.agent.reply c status result))

/-- The free place at the tail is reserved for a command's reply, with its tag and code (R156). -/
def State.reservePlace (c : Command) (s : State) : State := s.addPlace (.reserved c.tag c.code)

/-- The place reserved for a command code is filled where it stands (R156): at most one COMMIT and one SAVE are
reserved at once, so the code finds it (assumption 21). -/
def fillPlace (code : Byte) (form : Byte → Reply) : List Place → List Place
  | [] => []
  | .filled r :: rest => .filled r :: fillPlace code form rest
  | .reserved tag c :: rest =>
    if c = code then .filled (form tag) :: rest else .reserved tag c :: fillPlace code form rest

/-- Completion of a COMMIT or SAVE: its reserved place is filled (R156). -/
def State.fillReserved (code : Byte) (status : Status) (result : List Byte) (s : State) : State :=
  { s with agent := { s.agent with
      replies := fillPlace code
        (fun tag => { source := s.agent.source, tag := tag, code := code, status := status, result := result,
                      restartsFull := false })
        s.agent.replies } }

/-- The oldest filled place is taken; reserved places are passed over and keep their positions (R128). -/
def takeFilled : List Place → Option (Reply × List Place)
  | [] => none
  | .filled r :: rest => some (r, rest)
  | .reserved tag code :: rest =>
    match takeFilled rest with
    | some (r, left) => some (r, .reserved tag code :: left)
    | none => none

/-- A command for this part is appended, or overruns a full command queue (R153). -/
def State.receiveCommand (c : Command) (s : State) : State :=
  if s.agent.commands.length < Config.commandPlaces then
    { s with agent := { s.agent with commands := s.agent.commands ++ [c] } }
  else
    State.latch .mgmtOverrun { s with
      agent := { s.agent with overrun := true }
      device := { s.device with overrun := s.device.overrun + 1 } }

/-- The target addresses this part: its strap address from 0 to 30, or the broadcast address 31 (R151, R152). -/
def Agent.addressed (g : Agent) (target : Byte) : Bool :=
  decide (target.toNat = 31) || decide (target.toNat = g.strap.toNat)

/-- A cell handed to the agent, by its payload fields (R152). -/
def State.deliver (flags : Byte) (c : Command) (s : State) : State :=
  if flags &&& replyFlag = 0 ∧ s.agent.addressed c.target = true then s.receiveCommand c
  else { s with device := { s.device with notForMe := s.device.notForMe + 1 } }

/-- A management payload handed to the agent (R152, section 12.2). -/
def State.handOver (payload : List Byte) (s : State) : State :=
  s.deliver (byteAt payload 4)
    { target := byteAt payload 0, tag := byteAt payload 1, code := byteAt payload 2,
      args := fitBytes Config.argBytes (payload.drop 5) }

/-- The payload of a reply or notification as it leaves, with the flags in force at the take (R129, section 12.2). -/
def replyPayload (r : Reply) (overrun integrity : Bool) : List Byte :=
  [r.source, r.tag, r.code, r.status.code,
    replyFlag ||| (if overrun then overrunFlag else 0) ||| (if integrity then integrityFlag else 0)]
    ++ fitBytes Config.argBytes r.result

end Sys2Proof.Machine
end

