-- ==== Sys2Proof/Machine/Commit.lean ====
section
/-! DEFINITION. Committing table changes: validation (R134), the consequences of a commit for each flow context (R139 to
R147), and the round boundary (R81, R82, R138). -/

namespace Sys2Proof.Machine

open Sys2Proof

/-! ## Validation -/

/-- Why validation fails (R134). -/
inductive CommitReason where
  | dupLabel
  | loneHold
deriving DecidableEq, Repr

/-- The code of a reason (section 12.2). -/
def CommitReason.byte : CommitReason → Byte
  | .dupLabel => 1
  | .loneHold => 2

/-- A valid entry of lower index carries the same in-label (R134, test 1). -/
def Bank.dupLabel (bank : Bank) (n : Index) : Bool :=
  (List.finRange 128).any (fun k =>
    decide (k.val < n.val) && (bank.entry k).valid && (bank.entry k).inLabel == (bank.entry n).inLabel)

/-- The two tests of one entry (R134). -/
def Bank.checkEntry (bank : Bank) (n : Index) : Option (CommitReason × Index) :=
  if (bank.entry n).valid then
    if bank.dupLabel n then some (.dupLabel, n)
    else if (bank.entry n).hold.toNat < (bank.entry n).loneHold.toNat then some (.loneHold, n)
    else none
  else none

/-- The validation scan, in increasing order of index, stopping at the first failure (R134). -/
def Bank.validate (bank : Bank) : Option (CommitReason × Index) :=
  (List.finRange 128).findSome? bank.checkEntry

/-! ## Consequences for one flow context -/

/-- The flow moves to the tail of another class's ring when its queue is non-empty (R86). -/
def State.moveRing (n : Index) (old new : Fin 8) (s : State) : State :=
  if old = new ∨ (s.flow n).queue = [] then s else (s.leaveRing old n).joinRing new n

/-- An entry turned valid (R140). -/
def State.commitTurnsValid (new : Entry) (n : Index) (s : State) : State :=
  (s.setFlow n ((s.flow n).newFlow new.cls)).moveRing n (s.flow n).servingClass new.cls

/-- The commit release of one context at the boundary, under its old entry: the flow joins its ring, LOSS latches when
numbers were given up (R141). -/
def State.commitReleaseFlow (old : Entry) (n : Index) (s : State) : State :=
  let r := (s.flow n).commitRelease old
  if r.2 then (s.putFlow n r.1).latch .loss else s.putFlow n r.1

/-- An entry turned invalid (R142). -/
def State.commitTurnsInvalid (old : Entry) (n : Index) (s : State) : State :=
  let s1 := s.commitReleaseFlow old n
  s1.setFlow n (s1.flow n).retire

/-- A valid entry's in-label was replaced (R143). -/
def State.commitRelabels (old new : Entry) (n : Index) (s : State) : State :=
  (s.commitReleaseFlow old n).commitTurnsValid new n

/-- A smaller window flushes the held records beyond it (R144). -/
def State.commitWindow (old new : Entry) (n : Index) (s : State) : State :=
  if new.window.size < old.window.size then
    (s.setFlow n ((s.flow n).shrinkWindow new.window.size)).freeBuffers ((s.flow n).beyond new.window.size).length
  else s

/-- A new class: the context takes it, and the flow moves to the tail of its ring (R86, R146). -/
def State.commitClass (old new : Entry) (n : Index) (s : State) : State :=
  if old.cls = new.cls then s
  else (s.setFlow n { s.flow n with servingClass := new.cls }).moveRing n (s.flow n).servingClass new.cls

/-- Hold, lone hold or path policy changed: presence is aligned with the policy and the deadline is to be computed anew
(R145). That a SEEDING context whose held set is empty has its seeding deadline computed anew too is assumption 30. -/
def State.commitPolicy (old new : Entry) (n : Index) (s : State) : State :=
  if old.hold = new.hold ∧ old.loneHold = new.loneHold ∧ old.policy = new.policy then s
  else s.setFlow n ((s.flow n).takePolicy new.policy)

/-- Both entries valid with the same in-label: the consequences of every field that differs, and then the deadlines
moved into the past are reached (R139, R144 to R146; their order is assumption 12). -/
def State.commitSameLabel (old new : Entry) (n : Index) (s : State) : State :=
  if old = new then s
  else
    let s1 := ((s.commitWindow old new n).commitPolicy old new n).commitClass old new n
    s1.settleFlow n (s1.flow n)

/-- The consequences of a commit at one index (R139). The ACTIVE bank already is the new one. -/
def State.commitIndex (oldBank : Bank) (n : Index) (s : State) : State :=
  let old := oldBank.entry n
  let new := s.entry n
  match old.valid, new.valid with
  | false, false => s
  | false, true => s.commitTurnsValid new n
  | true, false => s.commitTurnsInvalid old n
  | true, true => if old.inLabel = new.inLabel then s.commitSameLabel old new n else s.commitRelabels old new n

/-! ## The round boundary -/

/-- An outstanding commit completes: PENDING is copied into ACTIVE, its consequences apply in increasing order of
index, the commit state is NONE and the reserved place is filled OK (R138). -/
def State.completeCommit (s : State) : State :=
  match s.tables.commit with
  | .none => s
  | .outstanding _ =>
    let s1 := { s with tables := { s.tables with active := s.tables.pendingBank, commit := .none } }
    ((s1.forFlows (State.commitIndex s.tables.active)).reportFlows).fillReserved commitCode .ok []

/-- The cell time that used the last position of the ACTIVE Calendar has run: the next advance is the round boundary
(R81). -/
def State.boundaryDue (s : State) : Bool :=
  s.sched.slotUsed && decide (s.tables.active.calendar.length ≤ s.sched.position + 1)

/-- The round boundary: the position becomes 0 and an outstanding commit completes (R81, R82, R138). -/
def State.roundBoundary (s : State) : State :=
  State.completeCommit { s with sched := { s.sched with position := 0, slotUsed := false } }

end Sys2Proof.Machine
end

