-- ==== Sys2Proof/Machine/Commands.lean ====
section
/-! DEFINITION. What each management command does when the agent executes it: its refusals, its effect and its reply
(R132 to R137, R162 to R172, R190, R194). One definition per command of section 12.2, RESTART's two kinds apart. -/

namespace Sys2Proof.Machine

open Sys2Proof

/-! ## Reads of the part -/

/-- ECHO (R162). -/
def runEcho (c : Command) (s : State) : State := s.answer c .ok c.args

/-- The result of GET_STATUS (R163, section 12.4). -/
def State.statusResult (s : State) : List Byte :=
  [s.rxA.state.byte, s.rxB.state.byte] ++ encode16 s.pool.free ++ encode16 s.pool.lowWater
    ++ [s.tables.commit.byte, s.store.state.byte, s.agent.source] ++ encodeTime s.timeBase

/-- GET_STATUS: with the clear option the low-water mark becomes the free count after both are taken (R79, R163). -/
def runGetStatus (c : Command) (s : State) : State :=
  let s1 := s.answer c .ok s.statusResult
  if c.clears 0 then { s1 with pool := { s1.pool with lowWater := s1.pool.free } } else s1

/-- GET_ENTRY (R164). -/
def runGetEntry (c : Command) (s : State) : State :=
  match s.tables.bank (c.arg 0), decodeIndex (c.arg 1) with
  | some bank, some n => s.answer c .ok (encodeEntry (bank.entry n))
  | _, _ => s.answer c .badArgument []

/-- A first position and a count name slots of a Calendar (R132, R164). -/
def slotRangeOk (first count : Nat) : Bool :=
  decide (1 ≤ count) && decide (count ≤ 32) && decide (first + count ≤ 128)

/-- GET_SLOTS (R164). -/
def runGetSlots (c : Command) (s : State) : State :=
  match s.tables.bank (c.arg 0) with
  | some bank =>
    if slotRangeOk (c.arg 1).toNat (c.arg 2).toNat then
      s.answer c .ok (encodeHeader bank.calendar
        ++ (List.range (c.arg 2).toNat).map (fun i => encodeSlot (bank.calendar.slot ((c.arg 1).toNat + i))))
    else s.answer c .badArgument []
  | none => s.answer c .badArgument []

/-- The context an index of GET_COUNTERS names: a flow, or context M at 128 (R10, R166). -/
def decodeContext (b : Byte) : Option ContextId :=
  match decodeIndex b with
  | some n => some (.flow n)
  | none => if b = 128 then some .m else none

/-- Changes one context's record. -/
def State.changeRecord (i : ContextId) (f : Ctx → Ctx) (s : State) : State :=
  match i with
  | .flow n => s.setFlow n (f (s.flow n))
  | .m => { s with m := f s.m }

/-- The result of GET_COUNTERS (R166, section 12.4). -/
def State.countersResult (i : ContextId) (index group : Byte) (s : State) : List Byte :=
  let x := s.ctx i
  [index, group, x.state.byte] ++ encode16 x.nes.toNat ++ encodeTime s.timeBase ++ x.groupBytes group

/-- GET_COUNTERS: the values are taken and, with the clear option, the group is cleared at one instant (R166). -/
def runGetCounters (c : Command) (s : State) : State :=
  match decodeContext (c.arg 0) with
  | some i =>
    if (c.arg 1).toNat ≤ 2 then
      let s1 := s.answer c .ok (s.countersResult i (c.arg 0) (c.arg 1))
      if c.clears 2 then s1.changeRecord i (Ctx.clearGroup (c.arg 1)) else s1
    else s.answer c .badArgument []
  | none => s.answer c .badArgument []

/-- GET_DEVICE_COUNTERS (R167). -/
def runGetDeviceCounters (c : Command) (s : State) : State :=
  let s1 := s.answer c .ok ([c.arg 0] ++ encodeTime s.timeBase ++ s.device.groupBytes (c.arg 0))
  if c.clears 1 then { s1 with device := s1.device.clearGroup (c.arg 0) } else s1

/-- GET_ALARMS (R168). -/
def runGetAlarms (c : Command) (s : State) : State :=
  s.answer c .ok (encodeKinds s.alarms.latched ++ encodeKinds s.alarms.holding
    ++ encodeKinds s.tables.settings.alarmMask ++ encodeKinds s.tables.settings.notifyMask)

/-- CLEAR_ALARMS (R168, R182). -/
def runClearAlarms (c : Command) (s : State) : State :=
  let latched := clearedLatches s.alarms (decodeKinds (c.arg16 0))
  State.answer c .ok (encodeKinds latched) { s with alarms := { s.alarms with latched := latched } }

/-- GET_SETTINGS (R169). -/
def runGetSettings (c : Command) (s : State) : State := s.answer c .ok (encodeSettings s.tables.settings)

/-- GET_STRAYS (R17). -/
def runGetStrays (c : Command) (s : State) : State :=
  s.answer c .ok ([BitVec.ofNat 8 s.strays.length] ++ encodeCount s.device.strayOverflow
    ++ ((s.strays.drop (c.arg 0).toNat).take 3).flatMap encodeStray)

/-! ## Writes of the PENDING bank -/

/-- Changes the PENDING bank. -/
def State.writePending (bank : Bank) (s : State) : State := { s with tables := { s.tables with pendingBank := bank } }

/-- Entry `n` of a bank replaced. -/
def Bank.putEntry (n : Index) (e : Entry) (bank : Bank) : Bank := { bank with entries := bank.entries.set n.val e }

/-- Consecutive slots of a Calendar replaced, from position `first`. -/
def Bank.putSlots (first : Nat) (slots : List Slot) (bank : Bank) : Bank :=
  { bank with calendar := { bank.calendar with
      slots := bank.calendar.slots.take first ++ slots ++ bank.calendar.slots.drop (first + slots.length) } }

/-- PUT_ENTRY: the commit state first, then the arguments (R132, R136). -/
def runPutEntry (c : Command) (s : State) : State :=
  match s.tables.commit with
  | .outstanding _ => s.answer c .commitPending []
  | .none =>
    match decodeIndex (c.arg 0), decodeEntry c.args 1 with
    | some n, some e => (s.writePending (s.tables.pendingBank.putEntry n e)).answer c .ok []
    | _, _ => s.answer c .badArgument []

/-- PUT_SLOTS (R132, R136). -/
def runPutSlots (c : Command) (s : State) : State :=
  match s.tables.commit with
  | .outstanding _ => s.answer c .commitPending []
  | .none =>
    if slotRangeOk (c.arg 0).toNat (c.arg 1).toNat then
      match decodeSlots c.args 2 (c.arg 1).toNat with
      | some slots => (s.writePending (s.tables.pendingBank.putSlots (c.arg 0).toNat slots)).answer c .ok []
      | none => s.answer c .badArgument []
    else s.answer c .badArgument []

/-- A Calendar header in two argument bytes; none when the length or LEND is out of range (R132). -/
def decodeHeader (length lend : Byte) : Option (Nat × Bool) :=
  match decodeFlag lend with
  | some l => if 1 ≤ length.toNat ∧ length.toNat ≤ 128 then some (length.toNat, l) else none
  | none => none

/-- PUT_CAL_HEADER (R132, R136). -/
def runPutCalHeader (c : Command) (s : State) : State :=
  match s.tables.commit with
  | .outstanding _ => s.answer c .commitPending []
  | .none =>
    match decodeHeader (c.arg 0) (c.arg 1) with
    | some (length, lend) =>
      State.answer c .ok [] (s.writePending { s.tables.pendingBank with
        calendar := { s.tables.pendingBank.calendar with length := length, lend := lend } })
    | none => s.answer c .badArgument []

/-- COMMIT: validated, it reserves its place and the commit state is OUTSTANDING (R134, R135, R165). -/
def runCommit (c : Command) (s : State) : State :=
  match s.tables.commit with
  | .outstanding _ => s.answer c .commitPending []
  | .none =>
    match s.tables.pendingBank.validate with
    | some (reason, n) => s.answer c .validationFailed [reason.byte, BitVec.ofNat 8 n.val]
    | none => State.reservePlace c { s with tables := { s.tables with commit := .outstanding c.tag } }

/-- ABANDON (R137). -/
def runAbandon (c : Command) (s : State) : State :=
  match s.tables.commit with
  | .outstanding _ => s.answer c .commitPending []
  | .none => (s.writePending s.tables.active).answer c .ok []

/-! ## Settings, strays, flows -/

/-- PUT_SETTINGS (R11, R169). -/
def runPutSettings (c : Command) (s : State) : State :=
  match decodeSettings c.args with
  | some t => (s.writeSettings t).answer c .ok []
  | none => s.answer c .badArgument []

/-- CLEAR_STRAYS (R18). -/
def runClearStrays (c : Command) (s : State) : State := State.answer c .ok [] { s with strays := [] }

/-- RESET_FLOW on a flow whose entry is valid (R44): its held buffers return to the free list. -/
def State.flushFlow (n : Index) (s : State) : State :=
  ((s.setFlow n (s.flow n).resetFlow).freeBuffers (s.flow n).held.length).reportFlows

/-- RESET_FLOW (R44, R169). -/
def runResetFlow (c : Command) (s : State) : State :=
  match decodeIndex (c.arg 0) with
  | some n => if (s.entry n).valid then (s.flushFlow n).answer c .ok [] else s.answer c .badArgument []
  | none => s.answer c .badArgument []

/-! ## Store and restarts -/

/-- The slot SAVE writes and the generation it writes, of a store that has judged its slots (R190). -/
def Store.saveTarget (store : Store) : Bool × Count :=
  match store.newest with
  | some (slot, image) => (!slot, image.generation + 1)
  | none => (false, 1)

/-- SAVE: an IDLE store judges its slots and begins to write (R170, R187, R190). -/
def runSave (c : Command) (s : State) : State :=
  match s.store.state with
  | .writing _ _ => s.answer c .storeBusy []
  | .idle =>
    let store := s.store.consult
    let target := store.saveTarget
    let image := Image.form target.2 s.tables.active s.tables.settings
    State.reservePlace c { s with store := { store.setSlot target.1 none with state := .writing target.1 image } }

/-- LOAD: the commit state, the store state, the slots as they are judged then, in this order (R187, R194). -/
def runLoad (c : Command) (s : State) : State :=
  match s.tables.commit with
  | .outstanding _ => s.answer c .commitPending []
  | .none =>
    match s.store.state with
    | .writing _ _ => s.answer c .storeBusy []
    | .idle =>
      let s1 := { s with store := s.store.consult }
      match s1.store.newest with
      | none => s1.answer c .storeEmpty []
      | some (slot, image) =>
        ((s1.writePending image.bank).writeSettings image.settings).answer c .ok (encodeImage slot image.generation)

/-- RESTART FULL: refused while a write runs; else its reply is placed and the restart-waiting flag set (R172). -/
def runRestartFull (c : Command) (s : State) : State :=
  match s.store.state with
  | .writing _ _ => s.answer c .storeBusy []
  | .idle =>
    let s1 := s.addPlace (.filled { s.agent.reply c .ok [] with restartsFull := true })
    { s1 with agent := { s1.agent with restartWaiting := true } }

/-- RESTART TRAFFIC (R171, R200). -/
def runRestartTraffic (c : Command) (s : State) : State := s.trafficRestart.answer c .ok []

/-- A code that names no command (R162). -/
def runBadCommand (c : Command) (s : State) : State := s.answer c .badCommand []

/-! ## Execution -/

/-- A command by its code (section 12.2). -/
def runCommand (c : Command) (s : State) : State :=
  if c.code = 0x01 then runEcho c s
  else if c.code = 0x02 then runGetStatus c s
  else if c.code = 0x10 then runGetEntry c s
  else if c.code = 0x11 then runPutEntry c s
  else if c.code = 0x12 then runGetSlots c s
  else if c.code = 0x13 then runPutSlots c s
  else if c.code = 0x14 then runPutCalHeader c s
  else if c.code = 0x18 then runCommit c s
  else if c.code = 0x19 then runAbandon c s
  else if c.code = 0x20 then runGetCounters c s
  else if c.code = 0x21 then runGetDeviceCounters c s
  else if c.code = 0x24 then runGetAlarms c s
  else if c.code = 0x25 then runClearAlarms c s
  else if c.code = 0x28 then runGetSettings c s
  else if c.code = 0x29 then runPutSettings c s
  else if c.code = 0x2C then runGetStrays c s
  else if c.code = 0x2D then runClearStrays c s
  else if c.code = 0x30 then runResetFlow c s
  else if c.code = 0x38 then runSave c s
  else if c.code = 0x39 then runLoad c s
  else if c.code = 0x3C then
    if c.arg 0 = restartFullKind then runRestartFull c s else runRestartTraffic c s
  else runBadCommand c s

/-- The head of the command queue may execute: there is one, a place is free, and no restart waits (R154). -/
def Agent.canExecute (g : Agent) : Bool := !g.commands.isEmpty && !g.restartWaiting && g.placeFree

/-- The head of the command queue executes and leaves the queue (R154). -/
def State.executeHead (s : State) : State :=
  match s.agent.commands with
  | [] => s
  | c :: rest => runCommand c { s with agent := { s.agent with commands := rest } }

/-- Context M settles: all that its gap expiries and its release run change of its record is there before any command can
read it (R47, R58, R59, R174), and LOSS has latched for all of those expiries. Answers with the cells released, which are
handed over one by one behind it, commands executing between them. That order is the model's choice (assumption 28): a
CLEAR_ALARMS released by a first expiry clears the LOSS of a second one that was past in the same settling too, where R59's
steps 3 and 4 can also be read with the command between the two (R182). -/
def State.settleM (s : State) : List Buffer × State :=
  let r := s.m.settleRun s.mParams s.timeBase s.m.settleFuel
  (r.released, if r.lost then State.latch .loss { s with m := r.ctx } else { s with m := r.ctx })

/-- A cell context M released is handed over, its buffer returning to the free list with it (R47). A traffic restart
executed between two hand-overs has returned every buffer already (R80, assumption 28). -/
def State.handOverCell (b : Buffer) (s : State) : State :=
  State.handOver b.cell.payload (if s.pool.free < Config.poolSize then s.freeBuffers 1 else s)

/-- The agent and context M settle, `waiting` being the cells context M has released and the agent has not been handed:
the head executes while it may (R154), then the oldest waiting cell is handed over, and so each is disposed of before the
next (R152, R153). Context M settles at each turn, since a command may have changed its hold (R57). -/
def State.settle : Nat → List Buffer → State → State
  | 0, _, s => s
  | fuel + 1, waiting, s =>
    let r := s.settleM
    if r.2.agent.canExecute then State.settle fuel (waiting ++ r.1) r.2.executeHead
    else
      match waiting ++ r.1 with
      | [] => r.2
      | b :: rest => State.settle fuel rest (r.2.handOverCell b)

/-- Enough turns: each held cell of context M takes a hand-over and an execution, each queued command an execution; one
last look. -/
def State.settleFuel (s : State) : Nat := 2 * s.m.held.length + s.agent.commands.length + 1

/-- The agent and context M settle (R47, R154). -/
def State.settleAgent (s : State) : State := s.settle s.settleFuel []

/-- A management command of the table is handed to the agent, which is idle outside its working phase (R150, R152). -/
def State.agentTakes (code target tag : Byte) (args : List Byte) (s : State) : State :=
  if s.phase = .active then
    (s.deliver 0 { target := target, tag := tag, code := code, args := fitBytes Config.argBytes args }).settleAgent
  else s

/-- An arrival handed to context M (R47); its path is marked before the deadline is computed (assumption 27). -/
def State.arriveM (b : Buffer) (s : State) : State :=
  let j := s.m.judge s.mParams s.tables.settings.skewTicks s.pool.free b
  State.settleAgent { (s.moveBuffers j).latchAll j.events with m := s.markArrival b j }

end Sys2Proof.Machine
end

