-- ==== Sys2Proof/Machine/Agent.lean ====
section
/-! DEFINITION. The Management Agent's steps: NOTIFY, the end of a SAVE write, and one step for each command of the
table, handed to the agent and executed as soon as R154 allows. What each command does at its execution is its `run`
definition in Commands.lean. -/

namespace Sys2Proof.Machine

open Sys2Proof

/-- The four conditions under which a notification is formed, while the agent is at work (R160). -/
def State.notifyReady (s : State) : Bool :=
  decide (s.phase = .active) && s.agent.notifyPending && s.agent.commands.isEmpty && s.agent.placeFree
    && !s.agent.restartWaiting

/-- The notification: the latched kinds, the holding conditions and the Time Base at its forming (R160). -/
def State.notification (s : State) : Reply :=
  { source := s.agent.source, tag := 0, code := notifyCode, status := .ok,
    result := encodeKinds s.alarms.latched ++ encodeKinds s.alarms.holding ++ encodeTime s.timeBase,
    restartsFull := false }

/-- A notification is formed and placed, and the notification-pending flag cleared (R160). -/
def State.formNotification (s : State) : State :=
  let s1 := s.addPlace (.filled s.notification)
  { s1 with agent := { s1.agent with notifyPending := false } }

/-- NOTIFY (R160): nothing is formed while one of the conditions fails. -/
def execNotify (s : State) : Host.Outcome State Fault Refusal :=
  .next (if s.notifyReady then s.formNotification else s)

/-- A write and its read-back end: the slot holds the image when it is VALID, else it stays INVALID and STORE_FAILED
latches; the reserved place is filled and the store is IDLE (R191). -/
def State.endWrite (readBackOk : Bool) (slot : Bool) (image : Image) (s : State) : State :=
  let s1 := { s with store := { s.store.setSlot slot (if readBackOk then some image else none) with state := .idle } }
  let s2 := s1.fillReserved saveCode (if readBackOk then .ok else .storeFailed) (encodeImage slot image.generation)
  if readBackOk then s2 else s2.latch .storeFailed

/-- SAVE_WRITE_END (R191): an IDLE store has no write to end. -/
def execSaveWriteEnd (readBackOk : Bool) (elapsed : Time) (s : State) : Host.Outcome State Fault Refusal :=
  let s1 := s.advance elapsed
  match s1.store.state with
  | .idle => .next s1
  | .writing slot image => .next (s1.endWrite readBackOk slot image)

/-- ECHO (R162): `runEcho` when it executes. -/
def execEcho (target tag : Byte) (args : List Byte) (s : State) : Host.Outcome State Fault Refusal :=
  .next (s.agentTakes 0x01 target tag args)

/-- GET_STATUS (R163): `runGetStatus` when it executes. -/
def execGetStatus (target tag : Byte) (args : List Byte) (s : State) : Host.Outcome State Fault Refusal :=
  .next (s.agentTakes 0x02 target tag args)

/-- GET_ENTRY (R164): `runGetEntry` when it executes. -/
def execGetEntry (target tag : Byte) (args : List Byte) (s : State) : Host.Outcome State Fault Refusal :=
  .next (s.agentTakes 0x10 target tag args)

/-- PUT_ENTRY (R132): `runPutEntry` when it executes. -/
def execPutEntry (target tag : Byte) (args : List Byte) (s : State) : Host.Outcome State Fault Refusal :=
  .next (s.agentTakes 0x11 target tag args)

/-- GET_SLOTS (R164): `runGetSlots` when it executes. -/
def execGetSlots (target tag : Byte) (args : List Byte) (s : State) : Host.Outcome State Fault Refusal :=
  .next (s.agentTakes 0x12 target tag args)

/-- PUT_SLOTS (R132): `runPutSlots` when it executes. -/
def execPutSlots (target tag : Byte) (args : List Byte) (s : State) : Host.Outcome State Fault Refusal :=
  .next (s.agentTakes 0x13 target tag args)

/-- PUT_CAL_HEADER (R132): `runPutCalHeader` when it executes. -/
def execPutCalHeader (target tag : Byte) (args : List Byte) (s : State) : Host.Outcome State Fault Refusal :=
  .next (s.agentTakes 0x14 target tag args)

/-- COMMIT (R134, R135): `runCommit` when it executes. -/
def execCommit (target tag : Byte) (args : List Byte) (s : State) : Host.Outcome State Fault Refusal :=
  .next (s.agentTakes 0x18 target tag args)

/-- ABANDON (R137): `runAbandon` when it executes. -/
def execAbandon (target tag : Byte) (args : List Byte) (s : State) : Host.Outcome State Fault Refusal :=
  .next (s.agentTakes 0x19 target tag args)

/-- GET_COUNTERS (R166): `runGetCounters` when it executes. -/
def execGetCounters (target tag : Byte) (args : List Byte) (s : State) : Host.Outcome State Fault Refusal :=
  .next (s.agentTakes 0x20 target tag args)

/-- GET_DEVICE_COUNTERS (R167): `runGetDeviceCounters` when it executes. -/
def execGetDeviceCounters (target tag : Byte) (args : List Byte) (s : State) : Host.Outcome State Fault Refusal :=
  .next (s.agentTakes 0x21 target tag args)

/-- GET_ALARMS (R168): `runGetAlarms` when it executes. -/
def execGetAlarms (target tag : Byte) (args : List Byte) (s : State) : Host.Outcome State Fault Refusal :=
  .next (s.agentTakes 0x24 target tag args)

/-- CLEAR_ALARMS (R182): `runClearAlarms` when it executes. -/
def execClearAlarms (target tag : Byte) (args : List Byte) (s : State) : Host.Outcome State Fault Refusal :=
  .next (s.agentTakes 0x25 target tag args)

/-- GET_SETTINGS (R169): `runGetSettings` when it executes. -/
def execGetSettings (target tag : Byte) (args : List Byte) (s : State) : Host.Outcome State Fault Refusal :=
  .next (s.agentTakes 0x28 target tag args)

/-- PUT_SETTINGS (R11): `runPutSettings` when it executes. -/
def execPutSettings (target tag : Byte) (args : List Byte) (s : State) : Host.Outcome State Fault Refusal :=
  .next (s.agentTakes 0x29 target tag args)

/-- GET_STRAYS (R17): `runGetStrays` when it executes. -/
def execGetStrays (target tag : Byte) (args : List Byte) (s : State) : Host.Outcome State Fault Refusal :=
  .next (s.agentTakes 0x2C target tag args)

/-- CLEAR_STRAYS (R18): `runClearStrays` when it executes. -/
def execClearStrays (target tag : Byte) (args : List Byte) (s : State) : Host.Outcome State Fault Refusal :=
  .next (s.agentTakes 0x2D target tag args)

/-- RESET_FLOW (R44): `runResetFlow` when it executes. -/
def execResetFlow (target tag : Byte) (args : List Byte) (s : State) : Host.Outcome State Fault Refusal :=
  .next (s.agentTakes 0x30 target tag args)

/-- SAVE (R190): `runSave` when it executes. -/
def execSave (target tag : Byte) (args : List Byte) (s : State) : Host.Outcome State Fault Refusal :=
  .next (s.agentTakes 0x38 target tag args)

/-- LOAD (R194): `runLoad` when it executes. -/
def execLoad (target tag : Byte) (args : List Byte) (s : State) : Host.Outcome State Fault Refusal :=
  .next (s.agentTakes 0x39 target tag args)

/-- RESTART with kind 0xF1 (R172): `runRestartFull` when it executes. -/
def execRestartFull (target tag : Byte) (rest : List Byte) (s : State) : Host.Outcome State Fault Refusal :=
  .next (s.agentTakes 0x3C target tag (restartFullKind :: rest))

/-- RESTART with another kind (R171, R200): `runRestartTraffic` when it executes. -/
def execRestartTraffic (target tag kind : Byte) (rest : List Byte) (s : State) : Host.Outcome State Fault Refusal :=
  .next (s.agentTakes 0x3C target tag (kind :: rest))

/-- A command whose code names no command (R162): `runBadCommand` when it executes. -/
def execBadCommand (target tag code : Byte) (args : List Byte) (s : State) : Host.Outcome State Fault Refusal :=
  .next (s.agentTakes code target tag args)

end Sys2Proof.Machine
end

