-- ==== Sys2Proof/Machine/Deadlines.lean ====
section
/-! DEFINITION. The expiries: a seeding deadline, a gap deadline, a presence expiry (R30, R52, R56, R59). A deadline
that is not reached at the step's instant does not expire, and the step is then only the passing of its ticks
(assumption 7). -/

namespace Sys2Proof.Machine

open Sys2Proof

/-- The seeding of a context ends at its deadline (R30). -/
def State.expireSeeding (i : ContextId) (s : State) : State :=
  match i with
  | .flow n => s.changeFlow n Ctx.endSeeding
  | .m => State.settleAgent { s with m := s.m.endSeeding }

/-- A context gives up its gap at its deadline, and LOSS latches (R59). -/
def State.expireGap (i : ContextId) (s : State) : State :=
  match i with
  | .flow n => (s.latch .loss).changeFlow n Ctx.giveUpLowest
  | .m => State.settleAgent { s.latch .loss with m := s.m.giveUpLowest }

/-- A path becomes ABSENT for one context (R52); context M's hold does not follow presence (R55). -/
def State.expirePresence (i : ContextId) (p : Path) (s : State) : State :=
  match i with
  | .flow n => s.changeFlow n (Ctx.markAbsent p)
  | .m => { s with m := s.m.markAbsent p }

/-- SEEDING_DEADLINE (R30, R56). -/
def execSeedingDeadline (i : ContextId) (elapsed : Time) (s : State) : Host.Outcome State Fault Refusal :=
  let s1 := s.advance elapsed
  .next (if (s1.ctx i).seedingDue (s1.params i) s1.timeBase then s1.expireSeeding i else s1)

/-- GAP_EXPIRY (R56, R59). -/
def execGapExpiry (i : ContextId) (elapsed : Time) (s : State) : Host.Outcome State Fault Refusal :=
  let s1 := s.advance elapsed
  .next (if (s1.ctx i).gapDue (s1.params i) s1.timeBase then s1.expireGap i else s1)

/-- PRESENCE_EXPIRY (R52). -/
def execPresenceExpiry (i : ContextId) (p : Path) (elapsed : Time) (s : State) : Host.Outcome State Fault Refusal :=
  let s1 := s.advance elapsed
  .next (if ((s1.ctx i).pres p).expired s1.tables.settings.timeoutTicks s1.timeBase then s1.expirePresence i p
    else s1)

end Sys2Proof.Machine
end

