-- ==== Sys2Proof/Machine/Links.lean ====
section
/-! DEFINITION. The path receivers: signal, hunting for the boundary, judging headers and cells, and the Classifier
(R13 to R16, R112 to R126). -/

namespace Sys2Proof.Machine

open Sys2Proof

/-- The boundary moves on by one cell length (R115, R116). -/
def Receiver.nextBoundary (r : Receiver) : Option Nat := r.boundary.map (· + Config.cellBytes)

/-- A receiver has left UP: its link condition holds and its path is ABSENT in every context (R125, R126). -/
def State.leftUp (p : Path) (s : State) : State := (s.report (linkKind p) true).pathAbsent p

/-- SIGNAL_DETECTED: a receiver in DOWN enters HUNT, once the reset is released (R112, R113). -/
def execSignalDetected (p : Path) (elapsed : Time) (s : State) : Host.Outcome State Fault Refusal :=
  let s1 := s.advance elapsed
  let r := { s1.rx p with signal := true }
  .next (s1.setRx p (if s1.phase.counting then r.released else r))

/-- Bytes that arrive in HUNT behind the `recent` ones: each is tested, in arrival order, as the last byte of a candidate,
the six most recent bytes. `none` when a candidate passes; else what the next candidate will start with (R114). -/
def huntBytes : List Byte → List Byte → Option (List Byte)
  | recent, [] => some recent
  | recent, b :: rest =>
    let window := lastBytes Config.headerBytes (recent ++ [b])
    if window.length = Config.headerBytes ∧ headerPasses (headerOf window) = true then none
    else huntBytes (lastBytes (Config.headerBytes - 1) window) rest

/-- HUNT_CANDIDATE_PASSES: in HUNT the bytes that arrived are tested, and the first candidate that passes takes the
receiver to CHECK; bytes behind it are not HUNT's and are no part of the step. Where none passes the receiver keeps the
last five bytes (R114). A receiver in another state tests nothing (assumption 7). -/
def execHuntCandidatePasses (p : Path) (bytes : List Byte) (elapsed : Time) (s : State) :
    Host.Outcome State Fault Refusal :=
  let s1 := s.advance elapsed
  let r := s1.rx p
  if r.state = .hunt then
    match huntBytes r.recent bytes with
    | none => .next (s1.setRx p { r with state := .check, boundary := some Config.cellBytes, passCount := 1, recent := [] })
    | some recent => .next (s1.setRx p { r with recent := recent })
  else .next s1

/-- What the first candidate in HUNT starts with after a header failed at the boundary: all but its first byte (R114). -/
def afterFailing (header : BitVec 48) : List Byte := (wireBytes header).drop 1

/-- A header judged in UP, in the order of R117; in the STARTING phase its cell is discarded uncounted (R123). -/
def State.judgeHeader (p : Path) (header : BitVec 48) (s : State) : State :=
  if s.phase = .active then
    let s1 := s.countPath p (fun k => { k with cellsReceived := k.cellsReceived + 1 })
    if headerPasses header = false then s1.countPath p (fun k => { k with headerErrors := k.headerErrors + 1 })
    else if formatError (wireKind header) (wireLabel header) then
      s1.countPath p (fun k => { k with formatErrors := k.formatErrors + 1 })
    else
      match wireKind header with
      | none => s1
      | some .idle => s1
      | some kind =>
        s1.setRx p { s1.rx p with
          reception := some { kind := kind, label := wireLabel header, seq := wireSeq header,
                              check := wireCheck header } }
  else s

/-- The header that completes the six takes the receiver to UP and is the first judged there (R115). -/
def State.enterUp (p : Path) (header : BitVec 48) (s : State) : State :=
  let r := s.rx p
  let s1 := s.setRx p { r with state := .up, boundary := r.nextBoundary, passCount := Config.upHeaders,
                               failCount := 0, reception := none }
  let s2 := s1.countPath p (fun k => { k with upEntries := k.upEntries + 1 })
  (s2.report (linkKind p) false).judgeHeader p header

/-- A header at the boundary in CHECK (R114, R115). -/
def State.headerInCheck (p : Path) (header : BitVec 48) (s : State) : State :=
  let r := s.rx p
  if headerPasses header then
    if Config.upHeaders ≤ r.passCount + 1 then s.enterUp p header
    else s.setRx p { r with boundary := r.nextBoundary, passCount := r.passCount + 1 }
  else s.setRx p { r with state := .hunt, boundary := none, passCount := 0, recent := afterFailing header }

/-- A header at the boundary in UP: judged, and the fail count kept; the fourth failing header takes the receiver to
HUNT, its last five bytes the first candidate's first (R114, R116, R117). -/
def State.headerInUp (p : Path) (header : BitVec 48) (s : State) : State :=
  let r := s.rx p
  let r1 := { r with boundary := r.nextBoundary, reception := none }
  if headerPasses header then (s.setRx p { r1 with failCount := 0 }).judgeHeader p header
  else if r.failCount + 1 < Config.huntHeaders then
    (s.setRx p { r1 with failCount := r.failCount + 1 }).judgeHeader p header
  else
    State.leftUp p (((s.setRx p r1).judgeHeader p header).setRx p
      { r1 with state := .hunt, boundary := none, failCount := 0, recent := afterFailing header })

/-- HEADER_AT_BOUNDARY: only a receiver in CHECK or UP has a boundary (R112, R115 to R118). -/
def execHeaderAtBoundary (p : Path) (header : BitVec 48) (elapsed : Time) (s : State) :
    Host.Outcome State Fault Refusal :=
  let s1 := s.advance elapsed
  match (s1.rx p).state with
  | .check => .next (s1.headerInCheck p header)
  | .up => .next (s1.headerInUp p header)
  | .hunt => .next s1
  | .down => .next s1

/-- The Classifier disposes of a cell that passed the receiver's checks (R13, R14). -/
def State.classify (b : Buffer) (s : State) : State :=
  if b.cell.label = managementLabel then s.arriveM b
  else
    match s.tables.active.lookup b.cell.label with
    | none => s.unmatched b.cell.label b.path b.stamp
    | some n =>
      if (s.entry n).policy.uses b.path then s.arriveFlow n b
      else s.countPath b.path (fun k => { k with ignoredPath := k.ignoredPath + 1 })

/-- A cell that fails its payload check is discarded; a MGMT cell sets the INTEGRITY flag (R119, R120). -/
def State.payloadError (p : Path) (kind : Kind) (s : State) : State :=
  let s1 := s.countPath p (fun k => { k with payloadErrors := k.payloadErrors + 1 })
  if kind = .mgmt then { s1 with agent := { s1.agent with integrity := true } } else s1

/-- The cell in reception, whole, with its record (R67, R102). -/
def receivedBuffer (p : Path) (h : Header) (payload : List Byte) (check : Check) (stamp : Time) : Buffer :=
  { cell := { kind := h.kind, label := h.label, seq := h.seq, headerCheck := h.check, payload := payload,
              payloadCheck := check }
    path := p
    stamp := stamp }

/-- The last byte of the cell in reception `h` arrives: the cell is stamped and its payload judged against the check that
bytes 60 to 63 carry. Answers with the cell the receiver delivers, if its payload passes, which the Classifier and the
context have not taken yet (R102, R117, R119, R120, R122, R202). -/
def State.lastByte (p : Path) (h : Header) (payload check : List Byte) (s : State) : Option Buffer × State :=
  let s1 := s.setRx p { s.rx p with reception := none }
  let bytes := fitBytes Config.payloadBytes payload
  let carried := checkOf check
  if payloadPasses bytes carried then (some (receivedBuffer p h bytes carried s1.timeBase), s1)
  else (none, s1.payloadError p h.kind)

/-- A delivered cell, if there is one, is handed to the Classifier (R122). -/
def State.takeDelivered : Option Buffer → State → State
  | some b, s => s.classify b
  | none, s => s

/-- CELL_LAST_BYTE: the cell in reception is stamped, its payload judged, and handed to the Classifier when it passes
(R117, R119, R120, R122). With no cell in reception there is no last byte to judge. -/
def execCellLastByte (p : Path) (payload check : List Byte) (elapsed : Time) (s : State) :
    Host.Outcome State Fault Refusal :=
  let s1 := s.advance elapsed
  match (s1.rx p).reception with
  | none => .next s1
  | some h =>
    let r := s1.lastByte p h payload check
    .next (State.takeDelivered r.1 r.2)

/-- What a signal loss finds of the cell in reception: its last byte, where that arrived with the loss and was taken
first, or else a cell that is cut (R121). Answers with the cell the receiver delivered before it leaves UP. -/
def State.lastOrCut (p : Path) (last : Option (List Byte × List Byte)) (s : State) : Option Buffer × State :=
  match (s.rx p).reception, last with
  | none, _ => (none, s)
  | some h, some (payload, check) => s.lastByte p h payload check
  | some _, none => (none, s.countPath p (fun k => { k with cellsCut := k.cellsCut + 1 }))

/-- SIGNAL_LOST: the receiver enters DOWN from any state; from UP a cell in reception is cut and the path leaves UP
(R113, R121, R125, R126). Where the loss carries that cell's last byte, the byte was taken first and the contexts take the
cell behind the loss: it is classified and judged as usual and, its receiver being out of UP, marks no presence (R51, R121;
that this order is a form of SIGNAL_LOST is assumption 31). -/
def execSignalLost (loss : SignalLoss) (elapsed : Time) (s : State) : Host.Outcome State Fault Refusal :=
  let p := loss.path
  let s1 := s.advance elapsed
  if (s1.rx p).state = .up then
    let r := s1.lastOrCut p loss.last
    .next (State.takeDelivered r.1 ((r.2.setRx p (Receiver.down false)).leftUp p))
  else .next (s1.setRx p (Receiver.down false))

end Sys2Proof.Machine
end

