-- ==== Sys2Proof/Machine/Output.lean ====
section
/-! DEFINITION. The Scheduler, the Out transmitter and the return transmitters, cell time by cell time (R81 to R98,
R106 to R110, R127 to R131). -/

namespace Sys2Proof.Machine

open Sys2Proof

/-! ## The round boundary -/

/-- ROUND_BOUNDARY: the calendar position wraps, and an outstanding commit completes (R81, R82, R138). Unless the cell
time of the last position has run there is no boundary. -/
def execRoundBoundary (elapsed : Time) (s : State) : Host.Outcome State Fault Refusal :=
  let s1 := s.advance elapsed
  .next (if s1.phase = .active ∧ s1.boundaryDue = true then s1.roundBoundary else s1)

/-! ## Forming the cell sent on Out -/

/-- The correction field of a CLOCK payload, signed ticks (R107, section 12.2). -/
def correctionOf (payload : List Byte) : Int := (BitVec.ofNat 32 (beNat ((payload.drop 6).take 4))).toInt

/-- Writes the correction field, every other payload byte unchanged (R107). -/
def putCorrection (v : Int) (payload : List Byte) : List Byte :=
  payload.take 6 ++ beBytes 4 (BitVec.ofInt 32 v).toNat ++ payload.drop 10

/-- The three things that restamp a cell: kind CLOCK, the ACTIVE entry valid, its restamp field on (R108). -/
def restamps (e : Entry) (b : Buffer) : Bool := decide (b.cell.kind = .clock) && e.valid && e.restamp

/-- The exact sum of the correction carried and the residence (R106, R107). -/
def restampSum (now : Time) (b : Buffer) : Int := correctionOf b.cell.payload + (ticksSince now b.stamp : Int)

/-- The restamped correction saturates (R107). -/
def saturates (e : Entry) (now : Time) (b : Buffer) : Bool :=
  restamps e b && decide (Config.correctionMax < restampSum now b)

/-- The payload as it leaves (R92, R107, R108). -/
def outPayload (e : Entry) (now : Time) (b : Buffer) : List Byte :=
  if restamps e b then putCorrection (min (restampSum now b) Config.correctionMax) b.cell.payload
  else b.cell.payload

/-- The cell as the Out transmitter forms it at the start of the cell time (R92, R93). -/
def outCell (e : Entry) (now : Time) (b : Buffer) : Cell :=
  formCell b.cell.kind b.cell.label b.cell.seq (outPayload e now b)

/-! ## Choosing the cell -/

/-- The class that takes the cell time: the slot's own, or with LEND the lowest-numbered class that waits; an IDLE slot
does not lend (R87 to R89). -/
def State.selectClass (s : State) : Option (Fin 8) :=
  match s.tables.active.calendar.slot s.sched.position with
  | .idle => none
  | .cls k =>
    if (s.ring k).isEmpty then
      if s.tables.active.calendar.lend then (List.finRange 8).find? (fun j => !(s.ring j).isEmpty) else none
    else some k

/-- An idle cell is sent on Out and IDLE_SENT increments (R89, R94). -/
def State.sendIdle (s : State) : State :=
  { s with
    out := { buffer := none, line := some idleCell.wire }
    device := { s.device with idleSent := s.device.idleSent + 1 } }

/-- The context after the Scheduler took its oldest cell: the rest of its queue, NONE when a DRAINING queue is empty,
CORRECTION_SATURATED counted (R42, R85, R107, R109). -/
def Ctx.taken (rest : List Buffer) (saturated : Bool) (c : Ctx) : Ctx :=
  { c with
    queue := rest
    state := if rest.isEmpty && decide (c.state = .draining) then .none else c.state
    counters := if saturated then { c.counters with correctionSaturated := c.counters.correctionSaturated + 1 }
      else c.counters }

/-- The flow at the head of a class ring is served: its oldest cell passes with its buffer into the Out transmitter and
the flow moves in its ring (R85, R87, R92). -/
def State.serveClass (k : Fin 8) (s : State) : State :=
  match s.ring k with
  | [] => s.sendIdle
  | n :: others =>
    match (s.flow n).queue with
    | [] => State.sendIdle (s.setRing k others)
    | b :: rest =>
      let e := s.entry n
      let s1 := (s.setFlow n ((s.flow n).taken rest (saturates e s.timeBase b))).setRing k
        (if rest.isEmpty then others else others ++ [n])
      { s1 with out := { buffer := some b, line := some (outCell e s.timeBase b).wire } }

/-- The buffer of the cell whose cell time ends returns to the free list (R74). -/
def State.freeSent (s : State) : State :=
  match s.out.buffer with
  | some _ => State.freeBuffers 1 { s with out := { s.out with buffer := none } }
  | none => s

/-- The position for the cell time that starts: advanced by one, or wrapped at the round boundary when that has not
been taken yet, or as it stands when no cell time has used it (R81, R97, R98, assumption 8). -/
def State.advancePosition (s : State) : State :=
  if s.boundaryDue then s.roundBoundary
  else if s.sched.slotUsed then { s with sched := { s.sched with position := s.sched.position + 1 } }
  else s

/-- The cell time begins: the slot at the position is read and a flow's cell or an idle cell is sent (R87 to R89). -/
def State.useSlot (s : State) : State :=
  let s1 := { s with sched := { s.sched with slotUsed := true } }
  match s1.selectClass with
  | some k => s1.serveClass k
  | none => s1.sendIdle

/-- OUT_CELL_TIME_START: no signal while held in reset, an idle cell in the STARTING phase, and else the Scheduler's
step (R81, R87, R97). -/
def execOutCellTimeStart (elapsed : Time) (s : State) : Host.Outcome State Fault Refusal :=
  let s1 := s.advance elapsed
  match s1.phase with
  | .heldPower => .next { s1 with out := { s1.out with line := none } }
  | .heldPin => .next { s1 with out := { s1.out with line := none } }
  | .starting => .next s1.sendIdle
  | .active => .next (s1.freeSent.advancePosition).useSlot

/-! ## The return transmitters -/

/-- Both return directions carry an idle cell (R128, R131). -/
def State.returnIdle (s : State) : State := { s with ret := { s.ret with line := some idleCell.wire } }

/-- A reply is taken: completed with kind, label, sequence number, flags and checks; the counter advances and both
flags are cleared (R128 to R130). -/
def State.sendReply (r : Reply) (left : List Place) (s : State) : State :=
  { s with
    ret := { line := some (formCell .mgmt managementLabel s.ret.seq
                       (replyPayload r s.agent.overrun s.agent.integrity)).wire
             seq := s.ret.seq + 1 }
    agent := { s.agent with replies := left, overrun := false, integrity := false } }

/-- One return cell time at work: the oldest filled place is taken; the take of the RESTART FULL reply applies and
releases a full reset (R199), any other lets the head of the command queue execute into the freed place (R154). -/
def State.returnTake (addr : BitVec 5) (s : State) : State :=
  match takeFilled s.agent.replies with
  | none => s.returnIdle
  | some (r, left) =>
    let s1 := s.sendReply r left
    if r.restartsFull then (s1.fullReset .starting).releaseReset addr else s1.settleAgent

/-- RETURN_CELL_TIME (R127, R128). -/
def execReturnCellTime (addr : BitVec 5) (elapsed : Time) (s : State) : Host.Outcome State Fault Refusal :=
  let s1 := { s.advance elapsed with addrPins := addr }
  match s1.phase with
  | .heldPower => .next { s1 with ret := { s1.ret with line := none } }
  | .heldPin => .next { s1 with ret := { s1.ret with line := none } }
  | .starting => .next s1.returnIdle
  | .active => .next (s1.returnTake addr)

end Sys2Proof.Machine
end

