-- ==== Sys2Proof/Machine/Restart.lean ====
section
/-! DEFINITION. The steps of a full reset caused from outside: POWER_UP, RESET_N_LOW, RESET_RELEASE, LOAD_INSTANT
(R195 to R198). RESTART FULL's reset is taken in Output.lean. -/

namespace Sys2Proof.Machine

open Sys2Proof

/-- POWER_UP: a full reset is applied and the part is held; the transmit pairs carry no signal (R127, R195). -/
def execPowerUp (s : State) : Host.Outcome State Fault Refusal :=
  let s1 := s.fullReset .heldPower
  .next { s1 with out := { s1.out with line := none }, ret := { s1.ret with line := none } }

/-- RESET_N_LOW: a full reset is applied at once and the part is held; the cells in the line stages complete
(R96, R131, R195, R198). -/
def execResetNLow (s : State) : Host.Outcome State Fault Refusal := .next (s.fullReset .heldPin)

/-- RESET_RELEASE: a part held in reset is released (R195). A part that is not held has nothing to release. -/
def execResetRelease (addr : BitVec 5) (s : State) : Host.Outcome State Fault Refusal :=
  .next (if s.phase.counting then s else s.releaseReset addr)

/-- LOAD_INSTANT: the STARTING phase ends (R196). Outside it there is no load instant. -/
def execLoadInstant (elapsed : Time) (s : State) : Host.Outcome State Fault Refusal :=
  let s1 := s.advance elapsed
  .next (if s1.phase = .starting then s1.loadInstant else s1)

end Sys2Proof.Machine
end

