-- ==== Sys2Proof/Machine/Dispatch.lean ====
section
/-! DEFINITION. One arm per command: the command's effect on everything but the queue of waiting steps. -/

namespace Sys2Proof.Machine

open Sys2Proof

/-- The meaning of each command of spec/opcode_table.json. -/
def exec (i : Instr) (s : State) : Host.Outcome State Fault Refusal :=
  match i with
  | .powerUp => Sys2Proof.Machine.execPowerUp s
  | .resetNLow => Sys2Proof.Machine.execResetNLow s
  | .resetRelease addr => Sys2Proof.Machine.execResetRelease addr s
  | .loadInstant elapsed => Sys2Proof.Machine.execLoadInstant elapsed s
  | .signalDetected path elapsed => Sys2Proof.Machine.execSignalDetected path elapsed s
  | .signalLost loss elapsed => Sys2Proof.Machine.execSignalLost loss elapsed s
  | .huntCandidatePasses path bytes elapsed => Sys2Proof.Machine.execHuntCandidatePasses path bytes elapsed s
  | .headerAtBoundary path header elapsed => Sys2Proof.Machine.execHeaderAtBoundary path header elapsed s
  | .cellLastByte path payload check elapsed => Sys2Proof.Machine.execCellLastByte path payload check elapsed s
  | .seedingDeadline ctx elapsed => Sys2Proof.Machine.execSeedingDeadline ctx elapsed s
  | .gapExpiry ctx elapsed => Sys2Proof.Machine.execGapExpiry ctx elapsed s
  | .presenceExpiry ctx path elapsed => Sys2Proof.Machine.execPresenceExpiry ctx path elapsed s
  | .roundBoundary elapsed => Sys2Proof.Machine.execRoundBoundary elapsed s
  | .outCellTimeStart elapsed => Sys2Proof.Machine.execOutCellTimeStart elapsed s
  | .returnCellTime addr elapsed => Sys2Proof.Machine.execReturnCellTime addr elapsed s
  | .notify => Sys2Proof.Machine.execNotify s
  | .saveWriteEnd readBackOk elapsed => Sys2Proof.Machine.execSaveWriteEnd readBackOk elapsed s
  | .echo target tag args => Sys2Proof.Machine.execEcho target tag args s
  | .getStatus target tag args => Sys2Proof.Machine.execGetStatus target tag args s
  | .getEntry target tag args => Sys2Proof.Machine.execGetEntry target tag args s
  | .putEntry target tag args => Sys2Proof.Machine.execPutEntry target tag args s
  | .getSlots target tag args => Sys2Proof.Machine.execGetSlots target tag args s
  | .putSlots target tag args => Sys2Proof.Machine.execPutSlots target tag args s
  | .putCalHeader target tag args => Sys2Proof.Machine.execPutCalHeader target tag args s
  | .commit target tag args => Sys2Proof.Machine.execCommit target tag args s
  | .abandon target tag args => Sys2Proof.Machine.execAbandon target tag args s
  | .getCounters target tag args => Sys2Proof.Machine.execGetCounters target tag args s
  | .getDeviceCounters target tag args => Sys2Proof.Machine.execGetDeviceCounters target tag args s
  | .getAlarms target tag args => Sys2Proof.Machine.execGetAlarms target tag args s
  | .clearAlarms target tag args => Sys2Proof.Machine.execClearAlarms target tag args s
  | .getSettings target tag args => Sys2Proof.Machine.execGetSettings target tag args s
  | .putSettings target tag args => Sys2Proof.Machine.execPutSettings target tag args s
  | .getStrays target tag args => Sys2Proof.Machine.execGetStrays target tag args s
  | .clearStrays target tag args => Sys2Proof.Machine.execClearStrays target tag args s
  | .resetFlow target tag args => Sys2Proof.Machine.execResetFlow target tag args s
  | .save target tag args => Sys2Proof.Machine.execSave target tag args s
  | .load target tag args => Sys2Proof.Machine.execLoad target tag args s
  | .restartFull target tag rest => Sys2Proof.Machine.execRestartFull target tag rest s
  | .restartTraffic target tag kind rest => Sys2Proof.Machine.execRestartTraffic target tag kind rest s
  | .badCommand target tag code args => Sys2Proof.Machine.execBadCommand target tag code args s

end Sys2Proof.Machine
end

