-- ==== Sys2Proof/Safety.lean ====
section
/-! DEFINITION. What counts as a sound state of the part: the laws of spec/ that hold between two steps, in the terms
the statements use, and the conditions under which a command of the table is executed at once. -/

namespace Sys2Proof.Machine

open Sys2Proof

/-! ## The agent -/

/-- A command for `target` handed over now is executed at once, and context M has nothing to do on its own: the agent
is at work, addressed, with an empty command queue, a free place and no restart waiting (R152 to R154). -/
def State.agentReady (target : Byte) (s : State) : Prop :=
  s.phase = .active ∧ s.agent.addressed target = true ∧ s.agent.commands = [] ∧
    s.agent.replies.length < Config.replyPlaces ∧ s.agent.restartWaiting = false ∧
    s.m.micro s.mParams s.timeBase = .stay s.m

/-- The state with a reply of the agent at the tail of the reply queue (R155, R156). -/
def State.replied (tag code : Byte) (status : Status) (result : List Byte) (s : State) : State :=
  { s with agent := { s.agent with
      replies := s.agent.replies ++ [.filled { source := s.agent.source, tag := tag, code := code, status := status,
                                               result := result, restartsFull := false }] } }

/-- The state with a place reserved at the tail of the reply queue (R156). -/
def State.withReserved (tag code : Byte) (s : State) : State :=
  { s with agent := { s.agent with replies := s.agent.replies ++ [.reserved tag code] } }

/-- The tag and code of a reserved place. -/
def Place.reservation : Place → Option (Byte × Byte)
  | .filled _ => none
  | .reserved tag code => some (tag, code)

/-- The reserved places of a code, oldest first. -/
def Agent.reservedFor (code : Byte) (g : Agent) : List (Byte × Byte) :=
  (g.replies.filterMap Place.reservation).filter (fun r => r.2 == code)

/-- The place holds the reply to RESTART FULL. -/
def Place.restarts : Place → Bool
  | .filled r => r.restartsFull
  | .reserved _ _ => false

/-- The command queue never holds more than 4 commands, the reply queue never more than 8 places (R157). -/
def State.queuesBounded (s : State) : Prop :=
  s.agent.commands.length ≤ Config.commandPlaces ∧ s.agent.replies.length ≤ Config.replyPlaces

/-- Reserved places and what waits for them: an outstanding COMMIT has exactly its own, a write exactly one of SAVE,
nothing else is reserved; the restart-waiting flag is set exactly while the reply to RESTART FULL is queued
(R133, R156, R172). -/
def State.placesLaw (s : State) : Prop :=
  s.agent.reservedFor commitCode
      = (match s.tables.commit with | .none => [] | .outstanding tag => [(tag, commitCode)]) ∧
    (s.agent.reservedFor saveCode).length = (match s.store.state with | .idle => 0 | .writing _ _ => 1) ∧
    (∀ r ∈ s.agent.replies.filterMap Place.reservation, r.2 = commitCode ∨ r.2 = saveCode) ∧
    s.agent.restartWaiting = s.agent.replies.any Place.restarts

/-! ## Reset and start -/

/-- In a part that is held in reset or starting, the contexts, the Buffer Pool, the Scheduler and the tables with the
Settings and the commit state stand as the reset left them, Out holds no buffer, the Stray Label List and the agent's two
queues are empty, no restart waits, the store is IDLE and no cell is in reception; held in reset, the Time Base is at 0 and
both receivers are in DOWN (R97, R100, R123, R150, R195, R196). -/
def State.quietUntilLoaded (s : State) : Prop :=
  s.phase ≠ .active →
    s.flows = State.reset.flows ∧ s.m = State.reset.m ∧ s.pool = State.reset.pool ∧ s.sched = State.reset.sched ∧
    s.out.buffer = none ∧ s.tables = State.reset.tables ∧ s.strays = [] ∧ s.store.state = .idle ∧
    s.agent.commands = [] ∧ s.agent.replies = [] ∧ s.agent.restartWaiting = false ∧
    s.rxA.reception = none ∧ s.rxB.reception = none ∧
    (s.phase.counting = false → s.timeBase = 0 ∧ s.rxA.state = .down ∧ s.rxB.state = .down)

/-! ## Receivers and the Stray Label List -/

/-- One receiver's items agree with its state (R112 to R117). -/
def Receiver.lawful (r : Receiver) : Prop :=
  (r.boundary.isSome = true ↔ r.state = .check ∨ r.state = .up) ∧ r.passCount ≤ Config.upHeaders ∧
    r.failCount < Config.huntHeaders ∧ (r.state ≠ .up → r.failCount = 0) ∧
    (r.reception.isSome = true → r.state = .up) ∧ (r.state ≠ .down → r.signal = true) ∧
    r.recent.length ≤ 5 ∧ (r.recent ≠ [] → r.state = .hunt)

/-- Both receivers are lawful, and outside reset a line with signal has its receiver out of DOWN (R112, R113). -/
def State.receiversLaw (s : State) : Prop :=
  s.rxA.lawful ∧ s.rxB.lawful ∧
    (s.phase.counting = true → s.rxA.signal = true → s.rxA.state ≠ .down) ∧
    (s.phase.counting = true → s.rxB.signal = true → s.rxB.state ≠ .down)

/-- The Stray Label List holds at most 8 records, no two of one label, none of the management label (R16). -/
def State.straysLaw (s : State) : Prop :=
  s.strays.length ≤ Config.strayPlaces ∧ (s.strays.map Stray.label).Nodup ∧
    ∀ r ∈ s.strays, r.label ≠ managementLabel

/-! ## Tables -/

/-- Every field of an entry holds a value of its range (R1). -/
def Entry.inRange (e : Entry) : Prop :=
  e.inLabel ≠ managementLabel ∧ e.outLabel ≠ managementLabel ∧ e.hold ≠ 0 ∧ e.quota ≠ 0 ∧ e.quota.toNat ≤ 2048

/-- A bank holds 128 entries and 128 slots in range, and a length from 1 to 128 (R1, R7). -/
def Bank.inRange (bank : Bank) : Prop :=
  bank.entries.length = 128 ∧ (∀ e ∈ bank.entries, e.inRange) ∧ bank.calendar.slots.length = 128 ∧
    1 ≤ bank.calendar.length ∧ bank.calendar.length ≤ 128

/-- Every field of the Settings record holds a value of its range (R11). -/
def Settings.inRange (t : Settings) : Prop :=
  t.pathTimeout ≠ 0 ∧ t.pathTimeout.toNat ≤ 1000 ∧ t.managementHold ≠ 0 ∧ t.skewLimit ≠ 0

/-- No two valid entries of a bank share an in-label, and no valid entry's lone hold exceeds its hold (R8, R134). -/
def Bank.sound (bank : Bank) : Prop :=
  (∀ i j : Index, (bank.entry i).valid = true → (bank.entry j).valid = true →
      (bank.entry i).inLabel = (bank.entry j).inLabel → i = j) ∧
    ∀ i : Index, (bank.entry i).valid = true → (bank.entry i).loneHold.toNat ≤ (bank.entry i).hold.toNat

/-- An image of the store is in range, and sound (R187). -/
def Image.lawful (i : Image) : Prop := i.bank.inRange ∧ i.bank.sound ∧ i.settings.inRange

/-- The images the store holds or writes. -/
def Store.images (store : Store) : List Image :=
  store.slot0.toList ++ store.slot1.toList ++
    (match store.state with | .idle => [] | .writing _ image => [image])

/-- Every table, Settings record and image holds values of their ranges (R1, R7, R11, R187). -/
def State.tablesInRange (s : State) : Prop :=
  s.tables.active.inRange ∧ s.tables.pendingBank.inRange ∧ s.tables.settings.inRange ∧
    ∀ i ∈ s.store.images, i.bank.inRange ∧ i.settings.inRange

/-- The law of R8 and R134: the ACTIVE bank is sound, so are the images, and so is a PENDING bank that waits for its
boundary. -/
def State.banksSound (s : State) : Prop :=
  s.tables.active.sound ∧ (s.tables.commit ≠ .none → s.tables.pendingBank.sound) ∧
    ∀ i ∈ s.store.images, i.bank.sound

/-- The calendar position lies within the ACTIVE Calendar (R81, R82). -/
def State.positionInCalendar (s : State) : Prop := s.sched.position < s.tables.active.calendar.length

/-! ## Contexts -/

/-- The law of one context under its parameters: the held set ordered by distance ahead of NES and inside the window,
nothing held at NES in RUNNING, nothing held outside SEEDING and RUNNING, deadlines present exactly where the state has
them, 64 history positions, and an out-of-window run only in RUNNING (R22, R23, R31, R34, R42, R58). -/
def Ctx.lawful (p : Params) (c : Ctx) : Prop :=
  c.held.Pairwise (fun x y => seqDist c.nes x.buffer.cell.seq < seqDist c.nes y.buffer.cell.seq) ∧
    (∀ h ∈ c.held, seqDist c.nes h.buffer.cell.seq < p.window) ∧
    (c.state = .running → ∀ h ∈ c.held, seqDist c.nes h.buffer.cell.seq ≠ 0) ∧
    (c.held ≠ [] → c.state = .seeding ∨ c.state = .running) ∧
    (c.gapDeadline.isSome = true ↔ c.state = .running ∧ c.held ≠ []) ∧
    (c.seedingStamp.isSome = true ↔ c.state = .seeding) ∧
    (c.seedingDeadline.isSome = true ↔ c.state = .seeding) ∧
    c.history.length = Config.historyPlaces ∧ c.runCount < Config.resyncRun ∧ (c.state ≠ .running → c.runCount = 0)

/-- A context has nothing left to do at this instant: no record waits at NES, and its deadline is the one its lowest
record, or its seeding stamp, and its applicable hold give (R29, R31, R58). -/
def Ctx.settled (p : Params) (now : Time) (c : Ctx) : Prop := c.micro p now = .stay c

/-- A flow context's state agrees with its ACTIVE entry and its queue (R2, R24, R42, R43). -/
def Ctx.stateAgrees (valid : Bool) (c : Ctx) : Prop :=
  if valid then c.state = .unseeded ∨ c.state = .seeding ∨ c.state = .running
  else (c.state = .none ∧ c.queue = []) ∨ (c.state = .draining ∧ c.queue ≠ [])

/-- The 128 flow contexts and context M are lawful and settled, and their states agree with the ACTIVE bank; context M
has no queue (R2, R24, R31, R46, R48). -/
def State.contextsLaw (s : State) : Prop :=
  s.flows.length = 128 ∧
    (∀ n : Index, (s.flow n).lawful (Params.ofEntry (s.entry n)) ∧
      (s.flow n).settled (Params.ofEntry (s.entry n)) s.timeBase ∧ (s.flow n).stateAgrees (s.entry n).valid) ∧
    s.m.lawful s.mParams ∧ s.m.settled s.mParams s.timeBase ∧ s.m.stateAgrees true ∧ s.m.queue = [] ∧
    s.m.servingClass = 0

/-! ## Buffers and rings -/

/-- The buffers in use: held and queued in the flow contexts, held in context M, and in the Out transmitter (R68). -/
def State.buffersInUse (s : State) : Nat :=
  (s.flows.map Ctx.occupancy).sum + s.m.held.length + s.out.buffer.toList.length

/-- Each of the 2,048 buffers is on the free list or in use, and the low-water mark is not above the free count
(R68, R79). -/
def State.buffersConserved (s : State) : Prop :=
  s.pool.free + s.buffersInUse = Config.poolSize ∧ s.pool.lowWater ≤ s.pool.free

/-- A flow is in a class ring exactly when its queue is non-empty and the ring is that of its serving class, and no ring
holds an index twice (R83). -/
def State.ringsLaw (s : State) : Prop :=
  s.sched.rings.length = 8 ∧
    ∀ k : Fin 8, (s.ring k).Nodup ∧
      ∀ n : Index, n ∈ s.ring k ↔ (s.flow n).queue ≠ [] ∧ (s.flow n).servingClass = k

/-! ## What a release leaves -/

/-- The numbers given up when these records are released in order and NES stands at `nes` before the first (R59, R141). -/
def gapsBelow : Seq → List HeldRec → Nat
  | _, [] => 0
  | nes, h :: rest => seqDist nes h.buffer.cell.seq + gapsBelow (h.buffer.cell.seq + 1) rest

/-- The history positions those releases add, oldest first: SKIPPED for each number given up, EMITTED for each record
(R23). -/
def fates : Seq → List HeldRec → List HistPos
  | _, [] => []
  | nes, h :: rest =>
    List.replicate (seqDist nes h.buffer.cell.seq) .skipped
      ++ .emitted h.buffer.cell.payloadCheck h.buffer.path h.buffer.stamp h.otherSeen
      :: fates (h.buffer.cell.seq + 1) rest

/-- The buffers of released records as they stand in the queue: the out-label, and under RENUMBER the counter's values
from `renumber` on (R39, R41). -/
def sentAs (e : Entry) (renumber : Seq) (run : List HeldRec) : List Buffer :=
  run.mapIdx (fun i h => { h.buffer with cell := { h.buffer.cell with
    label := e.outLabel
    seq := if e.renumber then renumber + BitVec.ofNat 16 i else h.buffer.cell.seq } })

/-- The context after the records `run` were released in order, the gaps between them given up, `rest` staying held under
a gap deadline from its lowest record (R39, R40, R41, R58, R59). -/
def Ctx.afterRun (e : Entry) (hold : Nat) (run rest : List HeldRec) (c : Ctx) : Ctx :=
  { c with
    nes := match run.getLast? with | some h => h.buffer.cell.seq + 1 | none => c.nes
    held := rest
    gapDeadline := rest.head?.map (fun h => h.buffer.stamp + BitVec.ofNat 48 hold)
    queue := c.queue ++ sentAs e c.renumber run
    renumber := if e.renumber then c.renumber + BitVec.ofNat 16 run.length else c.renumber
    history := ((fates c.nes run).reverse ++ c.history).take 64
    counters := { c.counters with
      lost := c.counters.lost + BitVec.ofNat 32 (gapsBelow c.nes run)
      emitted := c.counters.emitted + BitVec.ofNat 32 run.length
      acceptedA := c.counters.acceptedA + BitVec.ofNat 32 (run.countP (fun h => h.buffer.path == .a))
      acceptedB := c.counters.acceptedB + BitVec.ofNat 32 (run.countP (fun h => h.buffer.path == .b)) } }

/-- From `c`, whose lowest record is `h` with `above` behind it, `h` and then each record that follows the one before it or
is past its own deadline were released, and no record further up was: the next one is not at NES and not past (R40, R58,
R59). -/
def Ctx.releasesFrom (e : Entry) (hold : Nat) (now : Time) (h : HeldRec) (above : List HeldRec) (c d : Ctx) : Prop :=
  ∃ run rest : List HeldRec, above = run ++ rest ∧ d = c.afterRun e hold (h :: run) rest ∧
    (∀ (i : Nat) (q r : HeldRec), (h :: run)[i]? = some q → run[i]? = some r →
      r.buffer.cell.seq = q.buffer.cell.seq + 1 ∨ hold ≤ (now - r.buffer.stamp).toNat) ∧
    ∀ r : HeldRec, rest.head? = some r → r.buffer.cell.seq ≠ d.nes ∧ (now - r.buffer.stamp).toNat < hold

/-- What settling leaves of a context `c` whose applicable hold is `hold`: its deadline computed anew, and where that
changes it to the past, what reaching it releases, `loss` being what a gap given up brings about (R29, R30, R56 to R59). -/
def Ctx.settlesTo (e : Entry) (hold : Nat) (now : Time) (loss : Prop) (c d : Ctx) : Prop :=
  (c.state = .running → c.held = [] → d = { c with gapDeadline := none }) ∧
  (∀ (h : HeldRec) (above : List HeldRec), c.state = .running → c.held = h :: above → h.buffer.cell.seq ≠ c.nes →
    let due : Option Time := some (h.buffer.stamp + BitVec.ofNat 48 hold)
    (c.gapDeadline = due ∨ (now - h.buffer.stamp).toNat < hold → d = { c with gapDeadline := due }) ∧
    (c.gapDeadline ≠ due → hold ≤ (now - h.buffer.stamp).toNat → c.releasesFrom e hold now h above d ∧ loss)) ∧
  (∀ stamp : Time, c.state = .seeding → c.seedingStamp = some stamp →
    let due : Option Time := some (stamp + BitVec.ofNat 48 hold)
    (c.seedingDeadline = due ∨ (now - stamp).toNat < hold → d = { c with seedingDeadline := due }) ∧
    (c.seedingDeadline ≠ due → hold ≤ (now - stamp).toNat →
      (c.held = [] → d = { c with state := .unseeded, seedingStamp := none, seedingDeadline := none }) ∧
      ∀ (h : HeldRec) (above : List HeldRec), c.held = h :: above →
        Ctx.releasesFrom e hold now h above
          { c with state := .running, nes := h.buffer.cell.seq, seedingStamp := none, seedingDeadline := none } d))

/-! ## Cells on their way to a flow -/

/-- The cell in reception on path `p`, whose last byte ends it with this payload and check, is good and is handed to flow
`n` by the ACTIVE bank (R14, R117). -/
def State.reachesFlow (p : Path) (h : Header) (payload : List Byte) (check : Check) (n : Index) (s : State) : Prop :=
  s.phase = .active ∧ s.rx p = { s.rx p with state := .up, reception := some h } ∧ payload.length = 54 ∧
    payloadPasses payload check = true ∧ h.label ≠ managementLabel ∧ s.flows.length = 128 ∧ s.tables.active.sound ∧
    (s.entry n).valid = true ∧ (s.entry n).inLabel = h.label ∧ (s.entry n).policy.uses p = true

/-- A presence record that an arrival of this stamp has marked (R51). -/
def State.markedBy (stamp : Time) (s : State) : Presence :=
  { present := true, last := some stamp,
    expiry := some (stamp + BitVec.ofNat 48 (s.tables.settings.pathTimeout.toNat * 100000)) }

/-! ## Alarms -/

/-- The condition of a kind as its owner knows it; an event kind's condition never holds (section 10.3, R64, R65, R78,
R125). -/
def State.condition (s : State) : AlarmKind → Prop
  | .linkADown => s.rxA.state ≠ .up
  | .linkBDown => s.rxB.state ≠ .up
  | .poolEmpty => s.pool.free = 0
  | .flowUnprotected => ∃ n : Index, (s.flow n).unprotected (s.entry n) = true
  | .flowSilent => ∃ n : Index, (s.flow n).silent = true
  | .mismatch => False
  | .skew => False
  | .loss => False
  | .resync => False
  | .mgmtOverrun => False
  | .storeFailed => False
  | .storeEmpty => False

/-- The Alarm Unit's copies agree with the conditions, and a kind whose condition holds is latched (R179, R180). -/
def State.alarmsLaw (s : State) : Prop :=
  ∀ k : AlarmKind, (hasKind s.alarms.holding k = true ↔ s.condition k) ∧
    (hasKind s.alarms.holding k = true → hasKind s.alarms.latched k = true)

/-! ## What a change of one flow leaves alone -/

/-- Nothing but flow context `n`, the ring of its serving class, the alarms and the notification-pending flag differs;
no latch is lost and no notification withdrawn (R159, R180, R181). -/
def State.onlyFlow (n : Index) (s t : State) : Prop :=
  t = { s with
        flows := t.flows
        sched := { s.sched with rings := t.sched.rings }
        alarms := t.alarms
        agent := { s.agent with notifyPending := t.agent.notifyPending } } ∧
    (∀ k : Index, k ≠ n → t.flow k = s.flow k) ∧
    (∀ k : Fin 8, k ≠ (s.flow n).servingClass → t.ring k = s.ring k) ∧
    (s.agent.notifyPending = true → t.agent.notifyPending = true) ∧
    (∀ k : AlarmKind, hasKind s.alarms.latched k = true → hasKind t.alarms.latched k = true)

/-! ## Commands as the agent receives them -/

/-- The code and the argument bytes a command of the table hands to the agent, with its target and tag
(section 12.2). -/
def handsOver : Instr → Option (Byte × Byte × Byte × List Byte)
  | .echo target tag args => some (0x01, target, tag, args)
  | .getStatus target tag args => some (0x02, target, tag, args)
  | .getEntry target tag args => some (0x10, target, tag, args)
  | .putEntry target tag args => some (0x11, target, tag, args)
  | .getSlots target tag args => some (0x12, target, tag, args)
  | .putSlots target tag args => some (0x13, target, tag, args)
  | .putCalHeader target tag args => some (0x14, target, tag, args)
  | .commit target tag args => some (0x18, target, tag, args)
  | .abandon target tag args => some (0x19, target, tag, args)
  | .getCounters target tag args => some (0x20, target, tag, args)
  | .getDeviceCounters target tag args => some (0x21, target, tag, args)
  | .getAlarms target tag args => some (0x24, target, tag, args)
  | .clearAlarms target tag args => some (0x25, target, tag, args)
  | .getSettings target tag args => some (0x28, target, tag, args)
  | .putSettings target tag args => some (0x29, target, tag, args)
  | .getStrays target tag args => some (0x2C, target, tag, args)
  | .clearStrays target tag args => some (0x2D, target, tag, args)
  | .resetFlow target tag args => some (0x30, target, tag, args)
  | .save target tag args => some (0x38, target, tag, args)
  | .load target tag args => some (0x39, target, tag, args)
  | .restartFull target tag rest => some (0x3C, target, tag, 0xF1 :: rest)
  | .restartTraffic target tag kind rest => some (0x3C, target, tag, kind :: rest)
  | .badCommand target tag code args => some (code, target, tag, args)
  | .powerUp => none
  | .resetNLow => none
  | .resetRelease _ => none
  | .loadInstant _ => none
  | .signalDetected _ _ => none
  | .signalLost _ _ => none
  | .huntCandidatePasses _ _ _ => none
  | .headerAtBoundary _ _ _ => none
  | .cellLastByte _ _ _ _ => none
  | .seedingDeadline _ _ => none
  | .gapExpiry _ _ => none
  | .presenceExpiry _ _ _ => none
  | .roundBoundary _ => none
  | .outCellTimeStart _ => none
  | .returnCellTime _ _ => none
  | .notify => none
  | .saveWriteEnd _ _ => none

/-! ## Headers on the line -/

/-- The cell in reception that a header judged in UP leaves, once its check has passed: a DATA, CLOCK or MGMT header
whose kind and label agree (R117, R118). -/
def receptionOf (header : BitVec 48) : Option Header :=
  match wireKind header with
  | some .data =>
    if wireLabel header = managementLabel then none
    else some { kind := .data, label := wireLabel header, seq := wireSeq header, check := wireCheck header }
  | some .clock =>
    if wireLabel header = managementLabel then none
    else some { kind := .clock, label := wireLabel header, seq := wireSeq header, check := wireCheck header }
  | some .mgmt =>
    if wireLabel header = managementLabel then
      some { kind := .mgmt, label := wireLabel header, seq := wireSeq header, check := wireCheck header }
    else none
  | some .idle => none
  | none => none

/-- The six header bytes of a cell as it stands on the line (section 12.1). -/
def Cell.wireHeader (c : Cell) : BitVec 48 := c.kind.code ++ c.label ++ c.seq ++ c.headerCheck

/-- The path is ABSENT in every context of `t`, and every presence stamp is as `s` had it; the other path's records are
as `s` had them (R53). -/
def State.absentEverywhere (p q : Path) (s t : State) : Prop :=
  (∀ n : Index, (t.flow n).pres p = { (s.flow n).pres p with present := false, expiry := none } ∧
      (t.flow n).pres q = (s.flow n).pres q) ∧
    t.m.pres p = { s.m.pres p with present := false, expiry := none } ∧ t.m.pres q = s.m.pres q

/-- The other path. -/
def otherPath : Path → Path
  | .a => .b
  | .b => .a

end Sys2Proof.Machine
end

