-- ==== Sys2Proof/Certificates/Slice0/Obligations.lean ====
section
/-! DEFINITION. The statements about the EML-2240: what a step is, what each command of the table does and where it
completes, what it refuses, and the laws that every step keeps. Each docstring names the rules of spec/ it rests on. -/

open Sys2Proof Sys2Proof.Machine

/-! ## Steps, time and reset -/

/-- A step takes the command at the front of the queue and is that command's effect on the state with the queue's rest
(the model's queue of waiting steps; assumption 3). -/
def Obligations.StepRunsTheFrontCommand : Prop :=
  ∀ (s : State) (c : Instr) (rest : List Instr),
    s.pending = c :: rest → step s = exec c { s with pending := rest }

/-- On an empty queue a step is one tick of the reference clock: the Time Base advances by one, wrapping, while the
reset is released, and stays where it is while the part is held (R99, R100; assumption 2 is the model's choice of what
an empty queue does). -/
def Obligations.EmptyQueueStepIsOneTick : Prop :=
  ∀ s : State, s.pending = [] →
    step s = .next (if s.phase = .starting ∨ s.phase = .active then { s with timeBase := s.timeBase + 1 } else s)

/-- What the reset leaves: receivers in DOWN with no boundary and zero counts (R112), every counter 0 (R175, R177),
no stray record (R19), default Settings and no commit (R148, R196), context M UNSEEDED and every flow context
emptied (R49), each of them with NES 0, no deadline, no stamp, an empty history, both paths ABSENT without a stamp
and a zero skew record (R49, R66), 2,048 free buffers and that low-water mark (R80), position 0 and empty rings
(R97), Time Base 0 (R100), reply sequence 0 (R130), empty queues and clear flags (R150), an IDLE store (R189), and
both link kinds holding and latched with ALARM_N low (R185). That the banks hold the defaults and the flow contexts
are NONE already before the load instant is the model's choice (assumption 4; R12 and R49 give it from the load
instant on). -/
def Obligations.ResetLeavesTheSpecsValues : Prop :=
  (∀ p : Path, (State.reset.rx p).state = .down ∧ (State.reset.rx p).boundary = none ∧
      (State.reset.rx p).passCount = 0 ∧ (State.reset.rx p).failCount = 0 ∧ (State.reset.rx p).recent = [] ∧
      (State.reset.rx p).reception = none) ∧
    State.reset.device = DeviceCounters.zero ∧ State.reset.strays = [] ∧
    State.reset.tables.active = Bank.default ∧ State.reset.tables.pendingBank = Bank.default ∧
    State.reset.tables.settings = Settings.default ∧ State.reset.tables.commit = .none ∧
    (∀ n : Index, (State.reset.flow n).state = .none) ∧ State.reset.m.state = .unseeded ∧
    (∀ i : ContextId, (State.reset.ctx i).nes = 0 ∧ (State.reset.ctx i).held = [] ∧ (State.reset.ctx i).queue = [] ∧
      (State.reset.ctx i).runCount = 0 ∧ (State.reset.ctx i).renumber = 0 ∧
      (State.reset.ctx i).seedingStamp = none ∧ (State.reset.ctx i).seedingDeadline = none ∧
      (State.reset.ctx i).gapDeadline = none ∧ (State.reset.ctx i).history = List.replicate 64 .none ∧
      (∀ p : Path, (State.reset.ctx i).pres p = { present := false, last := none, expiry := none }) ∧
      (State.reset.ctx i).skew = { last := 0, max := 0, leading := none } ∧
      (State.reset.ctx i).counters = FlowCounters.zero) ∧
    State.reset.pool.free = 2048 ∧ State.reset.pool.lowWater = 2048 ∧
    State.reset.sched.position = 0 ∧ (∀ k : Fin 8, State.reset.ring k = []) ∧
    State.reset.timeBase = 0 ∧ State.reset.ret.seq = 0 ∧ State.reset.out.buffer = none ∧
    State.reset.agent.commands = [] ∧ State.reset.agent.replies = [] ∧ State.reset.agent.overrun = false ∧
    State.reset.agent.integrity = false ∧ State.reset.agent.notifyPending = false ∧
    State.reset.agent.restartWaiting = false ∧ State.reset.store.state = .idle ∧
    (∀ k : AlarmKind, hasKind State.reset.alarms.latched k = true ↔ k = .linkADown ∨ k = .linkBDown) ∧
    State.reset.alarms.holding = State.reset.alarms.latched ∧ State.reset.alarmNLow = true

/-- POWER_UP and RESET_N_LOW apply a full reset in every state (R195, R198): every block takes its reset value; a slot
being written is INVALID and the other stands (R193); after RESET_N_LOW the cells in the line stages stand (R96, R131),
after POWER_UP the transmit pairs carry no signal (R127). The signal of the lines, the ADDR pins and the waiting steps
are outside (assumptions 3, 14). What R12, R49 and R151 give only from the load instant or the release on stands meanwhile
by the model's choice: both banks at the defaults, every flow context NONE, the strap address 0 (assumption 4). -/
def Obligations.FullResetFromOutside : Prop :=
  ∀ s : State,
    let store : Store :=
      match s.store.state with
      | .idle => s.store
      | .writing false _ => { s.store with slot0 := none, state := .idle }
      | .writing true _ => { s.store with slot1 := none, state := .idle }
    let t : State :=
      { State.reset with
        pending := s.pending
        addrPins := s.addrPins
        rxA := { State.reset.rxA with signal := s.rxA.signal }
        rxB := { State.reset.rxB with signal := s.rxB.signal }
        store := store }
    exec .powerUp s = .next { t with phase := .heldPower } ∧
      exec .resetNLow s
        = .next { t with phase := .heldPin, out := { buffer := none, line := s.out.line },
                         ret := { line := s.ret.line, seq := 0 } }

/-- RESET_RELEASE of a part held in reset: the Time Base is at 0, the strap address is the level of the ADDR pins, a
receiver whose line carries signal leaves DOWN for HUNT, and the STARTING phase begins; nothing else changes
(R100, R113, R151, R195, R196). -/
def Obligations.ResetReleaseBeginsStarting : Prop :=
  ∀ (s : State) (addr : BitVec 5), s.phase = .heldPower ∨ s.phase = .heldPin →
    exec (.resetRelease addr) s = .next
      { s with
        phase := .starting
        timeBase := 0
        addrPins := addr
        agent := { s.agent with strap := addr }
        rxA := { s.rxA with state := if s.rxA.signal = true ∧ s.rxA.state = .down then .hunt else s.rxA.state }
        rxB := { s.rxB with state := if s.rxB.signal = true ∧ s.rxB.state = .down then .hunt else s.rxB.state } }

/-- LOAD_INSTANT ends the STARTING phase: the store judges its slots, as NewestImageByGeneration says; both banks
and the Settings take the newest valid image, or the defaults with STORE_EMPTY latched; every flow context is fresh,
UNSEEDED for a valid entry and NONE for another, in its entry's class; the notification-pending flag is set when a
latched kind is enabled in the loaded notify mask; nothing else changes (R12, R49, R66, R161, R187, R196, R197; the
store's judging by assumption 16). -/
def Obligations.LoadInstantLoadsTheNewestImage : Prop :=
  ∀ (s : State) (d : Time), s.phase = .starting →
    let image := s.store.consult.newest
    let bank := match image with | some (_, i) => i.bank | none => Bank.default
    let settings := match image with | some (_, i) => i.settings | none => Settings.default
    let latched := if image = none then s.alarms.latched ||| AlarmKind.storeEmpty.mask else s.alarms.latched
    exec (.loadInstant d) s = .next
      { s with
        phase := .active
        timeBase := s.timeBase + d
        tables := { active := bank, pendingBank := bank, settings := settings, commit := .none }
        flows := (List.finRange 128).map (fun n =>
          Ctx.fresh (if (bank.entry n).valid then .unseeded else .none) (bank.entry n).cls)
        store := s.store.consult
        alarms := { latched := latched,
                    holding := s.alarms.holding &&& ~~~ (AlarmKind.flowUnprotected.mask ||| AlarmKind.flowSilent.mask) }
        agent := { s.agent with
          notifyPending := s.agent.notifyPending || (latched &&& settings.notifyMask) != 0 } }

/-- A store that consults its slots finds a slot VALID exactly when the integrity check it holds matches its other contents
and those have not decayed (R187; the check's function and the decay are free, and the count of consultations is the
model's own: assumption 16), and forgets an INVALID one's contents. The newest valid image: of two, slot 1 exactly when its
generation minus slot 0's, modulo 2^32, lies from 1 to 2,147,483,647, else slot 0; of one, that one; of none, none
(R188). -/
def Obligations.NewestImageByGeneration : Prop :=
  (∀ store : Store,
    let valid (slot : Bool) (i : Image) : Prop :=
      i.check = Config.integrityCheck (imageBytes i.generation i.bank i.settings) ∧
        Config.slotDecayed store.consultations slot = false
    store.consult = { store with slot0 := store.consult.slot0, slot1 := store.consult.slot1,
                                 consultations := store.consultations + 1 } ∧
    (∀ i : Image, store.consult.slot0 = some i ↔ store.slot0 = some i ∧ valid false i) ∧
    ∀ i : Image, store.consult.slot1 = some i ↔ store.slot1 = some i ∧ valid true i) ∧
  ∀ (i0 i1 : Image) (st : StoreState) (k : Nat),
    (1 ≤ (i1.generation - i0.generation).toNat → (i1.generation - i0.generation).toNat ≤ 2147483647 →
      Store.newest { slot0 := some i0, slot1 := some i1, state := st, consultations := k } = some (true, i1)) ∧
    (1 ≤ (i0.generation - i1.generation).toNat → (i0.generation - i1.generation).toNat ≤ 2147483647 →
      Store.newest { slot0 := some i0, slot1 := some i1, state := st, consultations := k } = some (false, i0)) ∧
    (i0.generation = i1.generation ∨ (i1.generation - i0.generation).toNat = 2147483648 →
      Store.newest { slot0 := some i0, slot1 := some i1, state := st, consultations := k } = some (false, i0)) ∧
    Store.newest { slot0 := some i0, slot1 := none, state := st, consultations := k } = some (false, i0) ∧
    Store.newest { slot0 := none, slot1 := some i1, state := st, consultations := k } = some (true, i1) ∧
    Store.newest { slot0 := none, slot1 := none, state := st, consultations := k } = none

/-! ## The path receivers -/

/-- SIGNAL_DETECTED takes a receiver in DOWN to HUNT once the reset is released, and changes nothing of a receiver in
another state but what its line circuit reports. SIGNAL_LOST takes a receiver to DOWN from every state, its boundary absent
and both counts 0. From UP a cell in reception is cut and counted, the path's link condition holds and latches, and the path
is ABSENT in every context with its stamps kept; outside UP nothing else changes (R53, R112, R113, R121, R125, R126). Where
the last byte of that cell fell together with the loss and was taken first, the cell is not cut: a damaged one counts
PAYLOAD_ERRORS, a good one is judged by its context as usual and may be kept, shown for one at NES of a flow or of context
M, and marks nothing, its path staying ABSENT with its stamp unchanged (R51, R121, R126; that this order is a form of
SIGNAL_LOST is assumption 31). -/
def Obligations.SignalChangesTakeTheReceiver : Prop :=
  ∀ (s : State) (p : Path) (d : Time) (last : Option (List Byte × List Byte)),
    let down : Receiver :=
      { state := .down, boundary := none, passCount := 0, failCount := 0, recent := [], reception := none,
        signal := false }
    exec (.signalDetected p d) s = .next ((s.advance d).setRx p
      { s.rx p with
        signal := true
        state := if (s.phase = .starting ∨ s.phase = .active) ∧ (s.rx p).state = .down then .hunt
                 else (s.rx p).state }) ∧
    ((s.rx p).state ≠ .up → exec (.signalLost ⟨p, last⟩ d) s = .next ((s.advance d).setRx p down)) ∧
    ((s.rx p).state = .up → last = none ∨ (s.rx p).reception = none →
      ∃ t : State, exec (.signalLost ⟨p, last⟩ d) s = .next t ∧
      t.rx p = down ∧
      t.rx (otherPath p) = s.rx (otherPath p) ∧
      (t.device.path p).cellsCut
        = (s.device.path p).cellsCut + (if (s.rx p).reception.isSome = true then 1 else 0) ∧
      t.device.path (otherPath p) = s.device.path (otherPath p) ∧
      hasKind t.alarms.holding (linkKind p) = true ∧
      (hasKind s.alarms.holding (linkKind p) = false → hasKind t.alarms.latched (linkKind p) = true) ∧
      State.absentEverywhere p (otherPath p) s t ∧
      t = { s.advance d with
        rxA := t.rxA, rxB := t.rxB, device := t.device, flows := t.flows, m := t.m, alarms := t.alarms
        sched := { s.sched with rings := t.sched.rings }
        agent := { s.agent with notifyPending := t.agent.notifyPending } }) ∧
    (∀ (h : Header) (payload : List Byte) (check : Check),
      (s.rx p).state = .up → (s.rx p).reception = some h → payload.length = 54 →
      let now := (s.advance d).timeBase
      let absent (c : Ctx) : Ctx := c.setPres p { c.pres p with present := false, expiry := none }
      let passed (c : Ctx) : Ctx := { absent c with
        nes := c.nes + 1
        gapDeadline := none
        runCount := 0
        history := (.emitted check p now false :: c.history).take 64
        counters := { c.counters with
          emitted := c.counters.emitted + 1
          acceptedA := if p = .a then c.counters.acceptedA + 1 else c.counters.acceptedA
          acceptedB := if p = .b then c.counters.acceptedB + 1 else c.counters.acceptedB } }
      ∃ t : State, exec (.signalLost ⟨p, some (payload, checkBytes check)⟩ d) s = .next t ∧
        (payloadPasses payload check = false ∨ h.label ≠ managementLabel →
          t.rx p = down ∧ t.rx (otherPath p) = s.rx (otherPath p) ∧
          (t.device.path p).cellsCut = (s.device.path p).cellsCut ∧
          hasKind t.alarms.holding (linkKind p) = true ∧
          (hasKind s.alarms.holding (linkKind p) = false → hasKind t.alarms.latched (linkKind p) = true) ∧
          State.absentEverywhere p (otherPath p) s t) ∧
        (payloadPasses payload check = false →
          t.device.path p = { s.device.path p with payloadErrors := (s.device.path p).payloadErrors + 1 } ∧
          t.agent.integrity = (if h.kind = .mgmt then true else s.agent.integrity) ∧ t.pool = s.pool) ∧
        (∀ n : Index, s.reachesFlow p h payload check n → (s.flow n).state = .running → (s.flow n).held = [] →
          h.seq = (s.flow n).nes → (s.flow n).queue.length < (s.entry n).quota.toNat → s.pool.free ≠ 0 →
          let c := s.flow n
          t.flow n = { passed c with
            queue := c.queue ++ [{
              cell := { kind := h.kind, label := (s.entry n).outLabel,
                        seq := if (s.entry n).renumber then c.renumber else h.seq, headerCheck := h.check,
                        payload := payload, payloadCheck := check }
              path := p, stamp := now }]
            renumber := if (s.entry n).renumber then c.renumber + 1 else c.renumber } ∧
          t.device = s.device ∧
          t.pool = { free := s.pool.free - 1, lowWater := min s.pool.lowWater (s.pool.free - 1) }) ∧
        (s.phase = .active → payloadPasses payload check = true → h.label = managementLabel →
          s.m.state = .running → s.m.held = [] → h.seq = s.m.nes → s.pool.free ≠ 0 → s.m.queue = [] →
          8 ≤ s.agent.replies.length ∨ s.agent.restartWaiting = true → t.m = passed s.m ∧ t.rx p = down))

/-- HUNT_CANDIDATE_PASSES: in HUNT the bytes that arrive follow the at most five received last, and where any six in
a row pass the header check the receiver enters CHECK with pass count 1 and its boundary 64 bytes beyond the
candidate's last byte, whatever its kind and label; where none do it stays in HUNT with the last five bytes of the
stream, from which the next candidate starts (R114; the boundary counts bytes from the candidate's last one,
assumption 9, and bytes behind it are not HUNT's, assumption 10). HEADER_AT_BOUNDARY in CHECK: a passing header
below the sixth counts and moves the boundary on by 64 bytes; a failing one returns to HUNT with no boundary and
count 0, its last five bytes the first candidate's first; no cell counter changes in either case. The sixth takes
the receiver to UP with fail count 0, counts UP_ENTRIES, ends the link condition, and is the first header judged in
UP, so that outside STARTING its cell is counted and, kind and label agreeing, in reception (R115, R117, R118, R123,
R125). -/
def Obligations.HuntAndCheckReachUp : Prop :=
  ∀ (s : State) (p : Path) (header : BitVec 48) (d : Time),
    (∀ bytes : List Byte, (s.rx p).state = .hunt → (s.rx p).recent.length ≤ 5 →
      let stream := (s.rx p).recent ++ bytes
      let candidate (i : Nat) : BitVec 48 := BitVec.ofNat 48 (beNat ((stream.drop i).take 6))
      ((∃ i : Nat, i + 6 ≤ stream.length ∧ headerPasses (candidate i) = true) →
        exec (.huntCandidatePasses p bytes d) s = .next ((s.advance d).setRx p
          { s.rx p with state := .check, boundary := some 64, passCount := 1, recent := [] })) ∧
      ((∀ i : Nat, i + 6 ≤ stream.length → headerPasses (candidate i) = false) →
        exec (.huntCandidatePasses p bytes d) s = .next ((s.advance d).setRx p
          { s.rx p with recent := stream.drop (stream.length - 5) }))) ∧
    ((s.rx p).state = .check → headerPasses header = true → (s.rx p).passCount < 5 →
      exec (.headerAtBoundary p header d) s = .next ((s.advance d).setRx p
        { s.rx p with boundary := (s.rx p).boundary.map (· + 64), passCount := (s.rx p).passCount + 1 })) ∧
    ((s.rx p).state = .check → headerPasses header = false →
      exec (.headerAtBoundary p header d) s = .next ((s.advance d).setRx p
        { s.rx p with state := .hunt, boundary := none, passCount := 0, recent := (beBytes 6 header.toNat).drop 1 })) ∧
    ((s.rx p).state = .check → headerPasses header = true → (s.rx p).passCount = 5 →
      ∃ t : State, exec (.headerAtBoundary p header d) s = .next t ∧
        t.rx p = { s.rx p with
          state := .up
          boundary := (s.rx p).boundary.map (· + 64)
          passCount := 6
          failCount := 0
          reception := if s.phase = .active then receptionOf header else none } ∧
        (t.device.path p) = { s.device.path p with
          upEntries := (s.device.path p).upEntries + 1
          cellsReceived := if s.phase = .active then (s.device.path p).cellsReceived + 1
                           else (s.device.path p).cellsReceived
          formatErrors := if s.phase = .active ∧ formatError (wireKind header) (wireLabel header) = true
                          then (s.device.path p).formatErrors + 1 else (s.device.path p).formatErrors } ∧
        t.alarms = { s.alarms with holding := s.alarms.holding &&& ~~~ (linkKind p).mask } ∧
        t = { s.advance d with rxA := t.rxA, rxB := t.rxB, device := t.device, alarms := t.alarms } ∧
        t.rx (otherPath p) = s.rx (otherPath p) ∧
        t.device.path (otherPath p) = s.device.path (otherPath p))

/-- HEADER_AT_BOUNDARY in UP, below the fourth failing header: the boundary moves on by 64 bytes; a passing header sets
the fail count to 0 and its cell is counted, judged for its format and, where kind and label agree and it is not IDLE,
in reception; a failing one raises the fail count and counts a header error; in STARTING nothing is counted and nothing
is in reception; nothing else changes (R116, R117, R118, R123). -/
def Obligations.HeadersJudgedInUp : Prop :=
  ∀ (s : State) (p : Path) (header : BitVec 48) (d : Time), (s.rx p).state = .up →
    (headerPasses header = true →
      exec (.headerAtBoundary p header d) s = .next
        (((s.advance d).setRx p { s.rx p with
            boundary := (s.rx p).boundary.map (· + 64)
            failCount := 0
            reception := if s.phase = .active then receptionOf header else none }).countPath p
          (fun k => if s.phase = .active then
            { k with cellsReceived := k.cellsReceived + 1
                     formatErrors := if formatError (wireKind header) (wireLabel header) = true
                                     then k.formatErrors + 1 else k.formatErrors } else k))) ∧
    (headerPasses header = false → (s.rx p).failCount < 3 →
      exec (.headerAtBoundary p header d) s = .next
        (((s.advance d).setRx p { s.rx p with
            boundary := (s.rx p).boundary.map (· + 64)
            failCount := (s.rx p).failCount + 1
            reception := none }).countPath p
          (fun k => if s.phase = .active then
            { k with cellsReceived := k.cellsReceived + 1, headerErrors := k.headerErrors + 1 } else k)))

/-- The fourth consecutive failing header in UP takes the receiver to HUNT with no boundary and fail count 0, its last five
bytes the first candidate's first (R114); at work it is judged and counted as a header error before, in STARTING nothing is
counted; the link condition holds, and the path is ABSENT in every context with its stamps kept (R53, R116, R123, R125,
R126). -/
def Obligations.FourthFailingHeaderLeavesUp : Prop :=
  ∀ (s : State) (p : Path) (header : BitVec 48) (d : Time),
    s.phase = .active ∨ s.phase = .starting → (s.rx p).state = .up → (s.rx p).failCount = 3 →
    headerPasses header = false →
    ∃ t : State, exec (.headerAtBoundary p header d) s = .next t ∧
      t.rx p = { s.rx p with state := .hunt, boundary := none, failCount := 0, reception := none,
                             recent := (beBytes 6 header.toNat).drop 1 } ∧
      t.rx (otherPath p) = s.rx (otherPath p) ∧
      t.device.path p = (if s.phase = .active then
        { s.device.path p with
          cellsReceived := (s.device.path p).cellsReceived + 1
          headerErrors := (s.device.path p).headerErrors + 1 } else s.device.path p) ∧
      (s.phase = .starting → t.device = s.device) ∧
      t.device.path (otherPath p) = s.device.path (otherPath p) ∧
      hasKind t.alarms.holding (linkKind p) = true ∧
      (hasKind s.alarms.holding (linkKind p) = false → hasKind t.alarms.latched (linkKind p) = true) ∧
      State.absentEverywhere p (otherPath p) s t ∧
      t = { s.advance d with
        rxA := t.rxA, rxB := t.rxB, device := t.device, flows := t.flows, m := t.m, alarms := t.alarms
        sched := { s.sched with rings := t.sched.rings }
        agent := { s.agent with notifyPending := t.agent.notifyPending } }

/-- CELL_LAST_BYTE of a cell that reaches no context. One that fails its payload check, which bytes 60 to 63 carry most
significant byte first, is discarded and counts PAYLOAD_ERRORS, a MGMT cell setting the INTEGRITY flag. A good traffic cell whose label no valid ACTIVE entry
carries is counted UNMATCHED and offered to the Stray Label List, which updates its record, makes one at the tail,
or, full, counts STRAY_OVERFLOW; one whose path the matched entry's policy excludes counts IGNORED_PATH; nothing
else changes (R14, R16, R20, R119, R120, R202). -/
def Obligations.CellsThatReachNoContext : Prop :=
  ∀ (s : State) (p : Path) (h : Header) (payload : List Byte) (b60 b61 b62 b63 : Byte) (d : Time),
    (s.rx p).reception = some h → payload.length = 54 →
    let check : Check := b60 ++ b61 ++ b62 ++ b63
    let s1 := (s.advance d).setRx p { s.rx p with reception := none }
    let counted := s1.countPath p (fun k => { k with unmatched := k.unmatched + 1 })
    (payloadPasses payload check = false →
      exec (.cellLastByte p payload [b60, b61, b62, b63] d) s = .next
        { s1.countPath p (fun k => { k with payloadErrors := k.payloadErrors + 1 }) with
          agent := { s.agent with integrity := if h.kind = .mgmt then true else s.agent.integrity } }) ∧
    (payloadPasses payload check = true → h.label ≠ managementLabel →
      (∀ n : Index, (s.entry n).valid = true → (s.entry n).inLabel ≠ h.label) →
      (h.label ∈ s.strays.map Stray.label →
        exec (.cellLastByte p payload [b60, b61, b62, b63] d) s = .next { counted with
          strays := s.strays.map (fun r =>
            if r.label = h.label then { r with count := r.count + 1, last := s1.timeBase } else r) }) ∧
      (h.label ∉ s.strays.map Stray.label → s.strays.length < 8 →
        exec (.cellLastByte p payload [b60, b61, b62, b63] d) s = .next { counted with
          strays := s.strays ++ [{ label := h.label, firstSeen := p, count := 1, last := s1.timeBase }] }) ∧
      (h.label ∉ s.strays.map Stray.label → 8 ≤ s.strays.length →
        exec (.cellLastByte p payload [b60, b61, b62, b63] d) s = .next { counted with
          device := { counted.device with strayOverflow := s.device.strayOverflow + 1 } })) ∧
    (∀ n : Index, payloadPasses payload check = true → h.label ≠ managementLabel → s.tables.active.sound →
      (s.entry n).valid = true → (s.entry n).inLabel = h.label →
      ((s.entry n).policy = .aOnly ∧ p = .b ∨ (s.entry n).policy = .bOnly ∧ p = .a) →
      exec (.cellLastByte p payload [b60, b61, b62, b63] d) s
        = .next (s1.countPath p (fun k => { k with ignoredPath := k.ignoredPath + 1 })))

/-! ## Merging two paths -/

/-- An arrival by its distance d ahead of NES. In RUNNING, at d below the window a held number is a duplicate and another is
put to the acceptance test; from the window to 32,767 it is OUT_OF_WINDOW, the eighth run apart; behind by 1 to 64 it is a
duplicate at an EMITTED position and LATE at another; further behind it is LATE; and LATE increases LATE and nothing else
(R31, R34, R36). In SEEDING a cell in range is judged as in RUNNING, and one outside it counts OUT_OF_WINDOW and nothing
else, the run count with it (R28). An accepted cell joins the held set in its order and the run count is 0 (R28, R33).
CELL_LAST_BYTE of such a cell ahead of NES, while the lowest record is not past, marks its path PRESENT and sets the gap
deadline from the lowest record (R33, R51, R58); at NES with records held, it is released and the in-order run with it, the
deadline being set from what stays held (R32, R39, R40, R58; the path marked before the deadline: assumption 27). Nothing
else changes but the pool, the ring, alarms and the notification-pending flag. -/
def Obligations.RunningDispositionsByDistance : Prop :=
  (∀ (p : Params) (limit free : Nat) (b : Buffer) (c : Ctx),
    let d := seqDist c.nes b.cell.seq
    let j := c.judge p limit free b
    let late : Judged :=
      { ctx := { c with counters := { c.counters with late := c.counters.late + 1 } }
        disp := .late, flushed := 0, events := [] }
    (c.state = .running → p.window ≤ 256 →
      (d < p.window → (∃ h ∈ c.held, h.buffer.cell.seq = b.cell.seq) → j.disp = .duplicate) ∧
      (d < p.window → (∀ h ∈ c.held, h.buffer.cell.seq ≠ b.cell.seq) →
        j.disp = if p.quota ≤ c.occupancy then .quotaDrop else if free = 0 then .noBuffer else .accepted) ∧
      (p.window ≤ d → d < 32768 → c.runCount < 7 → j.disp = .outOfWindow ∧
        j.ctx = { c with
          runCount := c.runCount + 1
          counters := { c.counters with outOfWindow := c.counters.outOfWindow + 1 } }) ∧
      (32768 ≤ d → 65536 - d ≤ 64 →
        (∀ k q st seen, c.history[65536 - d - 1]? = some (.emitted k q st seen) → j.disp = .duplicate) ∧
        ((∀ k q st seen, c.history[65536 - d - 1]? ≠ some (.emitted k q st seen)) → j = late)) ∧
      (32768 ≤ d → 64 < 65536 - d → j = late)) ∧
    (c.state = .seeding →
      (d < p.window →
        let r := Ctx.judge p limit free b { c with state := .running }
        j = { r with ctx := { r.ctx with state := .seeding } }) ∧
      (p.window ≤ d → j =
        { ctx := { c with counters := { c.counters with outOfWindow := c.counters.outOfWindow + 1 } }
          disp := .outOfWindow, flushed := 0, events := [] })) ∧
    (∀ below above : List HeldRec, c.state = .running ∨ c.state = .seeding → d < p.window → c.held = below ++ above →
      (∀ h ∈ below, seqDist c.nes h.buffer.cell.seq < d) → (∀ h ∈ above, d < seqDist c.nes h.buffer.cell.seq) →
      c.occupancy < p.quota → free ≠ 0 →
      j = { ctx := { c with held := below ++ { buffer := b, otherSeen := false } :: above, runCount := 0 }
            disp := .accepted, flushed := 0, events := [] })) ∧
  ∀ (s : State) (p : Path) (h : Header) (payload : List Byte) (check : Check) (d : Time) (n : Index),
    s.phase = .active → s.rx p = { s.rx p with state := .up, reception := some h } → payload.length = 54 →
    payloadPasses payload check = true → h.label ≠ managementLabel → s.flows.length = 128 →
    s.tables.active.sound → (s.entry n).valid = true → (s.entry n).inLabel = h.label →
    (s.entry n).policy.uses p = true → (s.flow n).state = .running →
    (s.flow n).occupancy < (s.entry n).quota.toNat → s.pool.free ≠ 0 →
    let e := s.entry n
    let c := s.flow n
    let now := (s.advance d).timeBase
    let new : HeldRec :=
      { buffer := { cell := { kind := h.kind, label := h.label, seq := h.seq, headerCheck := h.check,
                              payload := payload, payloadCheck := check }, path := p, stamp := now }
        otherSeen := false }
    let marked := { c with runCount := 0 }.setPres p
      { present := true, last := some now,
        expiry := some (now + BitVec.ofNat 48 (s.tables.settings.pathTimeout.toNat * 100000)) }
    let hold := if e.policy = .both ∧ marked.presA.present = true ∧ marked.presB.present = true
      then e.hold.toNat * 100 else e.loneHold.toNat * 100
    let pool : Pool := { free := s.pool.free - 1, lowWater := min s.pool.lowWater (s.pool.free - 1) }
    let received := (s.advance d).setRx p { s.rx p with reception := none }
    (∀ (below above : List HeldRec) (low : HeldRec),
      0 < seqDist c.nes h.seq → seqDist c.nes h.seq < e.window.size → c.held = below ++ above →
      (∀ r ∈ below, 0 < seqDist c.nes r.buffer.cell.seq ∧ seqDist c.nes r.buffer.cell.seq < seqDist c.nes h.seq) →
      (∀ r ∈ above, seqDist c.nes h.seq < seqDist c.nes r.buffer.cell.seq) →
      (below ++ new :: above).head? = some low → (now - low.buffer.stamp).toNat < hold →
      ∃ t : State, exec (.cellLastByte p payload (checkBytes check) d) s = .next t ∧
        t.flow n = { marked with
          held := below ++ new :: above
          gapDeadline := some (low.buffer.stamp + BitVec.ofNat 48 hold) } ∧
        t.pool = pool ∧ State.onlyFlow n { received with pool := t.pool } t) ∧
    (∀ run rest : List HeldRec, h.seq = c.nes → c.held = run ++ rest →
      (∀ r ∈ c.held, r.buffer.cell.seq ≠ c.nes) →
      (∀ i : Nat, ∀ r : HeldRec, run[i]? = some r → r.buffer.cell.seq = c.nes + BitVec.ofNat 16 (i + 1)) →
      (∀ r : HeldRec, rest.head? = some r →
        r.buffer.cell.seq ≠ c.nes + BitVec.ofNat 16 (run.length + 1) ∧ (now - r.buffer.stamp).toNat < hold) →
      ∃ t : State, exec (.cellLastByte p payload (checkBytes check) d) s = .next t ∧
        t.flow n = marked.afterRun e hold (new :: run) rest ∧
        t.pool = pool ∧ State.onlyFlow n { received with pool := t.pool } t)

/-- A cell that the number rules would take and the acceptance test refuses changes one counter of the context and nothing
else: no buffer is freed, no event happens, NES, state, held set, run count and deadlines stand. The quota is looked at
first (R26, R70). Stated for UNSEEDED, SEEDING and RUNNING apart from a resync's trigger cell. CELL_LAST_BYTE of such a
cell, and of one that is LATE or out of window below the eighth, leaves the flow with that counter, and in RUNNING the
out-of-window run count, and nothing else changed but what the alarms report: its path is not marked PRESENT, presence,
stamps and deadlines stand, no buffer is taken (R28, R34, R36, R51; a deadline left unchanged is not tested: assumption
13). -/
def Obligations.RefusedArrivalChangesOneCounter : Prop :=
  (∀ (p : Params) (limit free : Nat) (b : Buffer) (c : Ctx),
    c.state = .unseeded ∨
      ((c.state = .seeding ∨ c.state = .running) ∧ seqDist c.nes b.cell.seq < p.window ∧
        ∀ h ∈ c.held, h.buffer.cell.seq ≠ b.cell.seq) →
    (p.quota ≤ c.occupancy → c.judge p limit free b =
      { ctx := { c with counters := { c.counters with quotaDrop := c.counters.quotaDrop + 1 } },
        disp := .quotaDrop, flushed := 0, events := [] }) ∧
    (c.occupancy < p.quota → free = 0 → c.judge p limit free b =
      { ctx := { c with counters := { c.counters with noBuffer := c.counters.noBuffer + 1 } },
        disp := .noBuffer, flushed := 0, events := [] })) ∧
  ∀ (s : State) (p : Path) (h : Header) (payload : List Byte) (check : Check) (d : Time) (n : Index),
    s.reachesFlow p h payload check n → (s.flow n).settled (Params.ofEntry (s.entry n)) s.timeBase →
    let e := s.entry n
    let c := s.flow n
    let far := seqDist c.nes h.seq
    let wanted := c.state = .unseeded ∨
      ((c.state = .seeding ∨ c.state = .running) ∧ far < e.window.size ∧ ∀ r ∈ c.held, r.buffer.cell.seq ≠ h.seq)
    let leaves (k : FlowCounters) (runs : Nat) : Prop :=
      ∃ t : State, exec (.cellLastByte p payload (checkBytes check) d) s = .next t ∧
        t.flow n = { c with counters := k, runCount := runs } ∧ t.sched = s.sched ∧
        State.onlyFlow n ((s.advance d).setRx p { s.rx p with reception := none }) t
    (wanted → e.quota.toNat ≤ c.occupancy → leaves { c.counters with quotaDrop := c.counters.quotaDrop + 1 } c.runCount) ∧
    (wanted → c.occupancy < e.quota.toNat → s.pool.free = 0 →
      leaves { c.counters with noBuffer := c.counters.noBuffer + 1 } c.runCount) ∧
    (c.state = .running → 32768 ≤ far → (∀ k q st seen, c.history[65536 - far - 1]? ≠ some (.emitted k q st seen)) ∨
        64 < 65536 - far →
      leaves { c.counters with late := c.counters.late + 1 } c.runCount) ∧
    (c.state = .running → e.window.size ≤ far → far < 32768 → c.runCount < 7 →
      leaves { c.counters with outOfWindow := c.counters.outOfWindow + 1 } (c.runCount + 1)) ∧
    (c.state = .seeding → e.window.size ≤ far →
      leaves { c.counters with outOfWindow := c.counters.outOfWindow + 1 } c.runCount)

/-- A duplicate of a held record, or of an EMITTED position 1 to 64 behind NES: DUP of its path increases; MISMATCH
increases, with its event, exactly when the payload checks differ; the first duplicate of the number measures the skew
from the kept stamp with the kept path leading, counts SKEW_EXCEEDED, with its event, exactly above the limit, and sets
the flag; a later one measures nothing. The kept copy, NES, held numbers, queue and deadlines stand (R37, R62).
CELL_LAST_BYTE of such a cell, in RUNNING or in SEEDING, latches these events, takes no buffer and marks its path PRESENT
with its stamp, upon which the deadline follows the hold that now applies and is reached where that moves it into the past
(one left unchanged is not tested: assumption 13); nothing else changes but the ring, alarms and the notification-pending
flag (R28, R51, R57, R58). -/
def Obligations.DuplicatesAreComparedAndMeasured : Prop :=
  (∀ (p : Params) (limit free : Nat) (b : Buffer) (c : Ctx) (check : Check) (path : Path) (stamp : Time) (seen : Bool),
    c.state = .running → p.window ≤ 256 →
    let d := seqDist c.nes b.cell.seq
    let j := c.judge p limit free b
    let ticks := (b.stamp - stamp).toNat
    let recorded : Count := BitVec.ofNat 32 (min ticks 4294967295)
    let ofHeld := d < p.window ∧ ∃ h, c.held.find? (fun h => h.buffer.cell.seq == b.cell.seq) = some h ∧
      h.otherSeen = seen ∧ h.buffer.cell.payloadCheck = check ∧ h.buffer.path = path ∧ h.buffer.stamp = stamp
    let ofHistory := 32768 ≤ d ∧ 65536 - d ≤ 64 ∧ c.history[65536 - d - 1]? = some (.emitted check path stamp seen)
    ofHeld ∨ ofHistory →
    j.disp = .duplicate ∧ j.flushed = 0 ∧
    j.ctx.counters = { c.counters with
      dupA := if b.path = .a then c.counters.dupA + 1 else c.counters.dupA
      dupB := if b.path = .b then c.counters.dupB + 1 else c.counters.dupB
      mismatch := if b.cell.payloadCheck = check then c.counters.mismatch else c.counters.mismatch + 1
      skewExceeded := if seen = false ∧ limit < ticks then c.counters.skewExceeded + 1
                      else c.counters.skewExceeded } ∧
    (AlarmKind.mismatch ∈ j.events ↔ b.cell.payloadCheck ≠ check) ∧
    (AlarmKind.skew ∈ j.events ↔ seen = false ∧ limit < ticks) ∧
    j.ctx.skew = (if seen = true then c.skew
      else { last := recorded, max := if c.skew.max < recorded then recorded else c.skew.max, leading := some path }) ∧
    j.ctx = { c with counters := j.ctx.counters, skew := j.ctx.skew, held := j.ctx.held, history := j.ctx.history } ∧
    (ofHeld → j.ctx.history = c.history ∧ j.ctx.held = c.held.map (fun h =>
      if h.buffer.cell.seq = b.cell.seq then { h with otherSeen := true } else h)) ∧
    (ofHistory → j.ctx.held = c.held ∧
      j.ctx.history = c.history.set (65536 - d - 1) (.emitted check path stamp true))) ∧
  ∀ (s : State) (p : Path) (h : Header) (payload : List Byte) (check : Check) (d : Time) (n : Index)
    (kept : Check) (path : Path) (stamp : Time) (seen : Bool),
    s.reachesFlow p h payload check n → (s.flow n).settled (Params.ofEntry (s.entry n)) s.timeBase →
    let e := s.entry n
    let c := s.flow n
    let far := seqDist c.nes h.seq
    let now := (s.advance d).timeBase
    let b : Buffer :=
      { cell := { kind := h.kind, label := h.label, seq := h.seq, headerCheck := h.check, payload := payload,
                  payloadCheck := check }, path := p, stamp := now }
    let limit := s.tables.settings.skewLimit.toNat * 100
    let j := c.judge (Params.ofEntry e) limit s.pool.free b
    (c.state = .running ∨ c.state = .seeding) ∧ far < e.window.size ∧
        (∃ r, c.held.find? (fun r => r.buffer.cell.seq == h.seq) = some r ∧
          r.otherSeen = seen ∧ r.buffer.cell.payloadCheck = kept ∧ r.buffer.path = path ∧ r.buffer.stamp = stamp) ∨
      c.state = .running ∧ 32768 ≤ far ∧ 65536 - far ≤ 64 ∧
        c.history[65536 - far - 1]? = some (.emitted kept path stamp seen) →
    let marked := j.ctx.setPres p (s.markedBy now)
    let hold := if e.policy = .both ∧ marked.presA.present = true ∧ marked.presB.present = true
      then e.hold.toNat * 100 else e.loneHold.toNat * 100
    ∃ t : State, exec (.cellLastByte p payload (checkBytes check) d) s = .next t ∧
      marked.settlesTo e hold now (hasKind t.alarms.latched .loss = true) (t.flow n) ∧
      (check ≠ kept → hasKind t.alarms.latched .mismatch = true) ∧
      (seen = false ∧ limit < (now - stamp).toNat → hasKind t.alarms.latched .skew = true) ∧
      State.onlyFlow n ((s.advance d).setRx p { s.rx p with reception := none }) t

/-- The eighth out-of-window arrival resyncs: every held record is flushed and counted, its buffer free before the trigger
cell is put to the acceptance test; accepted, that cell seeds the context as R27 describes; refused, it is counted and
the context is UNSEEDED; queue, serving class, renumber counter, presence and skew record are kept, and the RESYNC event
happens (R34, R35). CELL_LAST_BYTE of such a cell latches RESYNC and frees the flushed buffers. Accepted, it takes one and
marks its path PRESENT, and the seeding deadline is its stamp plus the hold that then applies, reached at once where that is
0; refused, it marks nothing. Nothing else changes but the ring, alarms and the notification-pending flag (R29, R30, R51,
R73; the path marked before the deadline: assumption 27). -/
def Obligations.EighthOutOfWindowResyncs : Prop :=
  (∀ (p : Params) (limit free : Nat) (b : Buffer) (c : Ctx), c.state = .running → c.runCount = 7 →
    p.window ≤ seqDist c.nes b.cell.seq → seqDist c.nes b.cell.seq < 32768 →
    let j := c.judge p limit free b
    j.flushed = c.held.length ∧ j.events = [.resync] ∧
    (let base : Ctx := { c with
        state := .unseeded
        gapDeadline := none
        held := []
        history := List.replicate 64 .none
        runCount := 0
        counters := { c.counters with
          outOfWindow := c.counters.outOfWindow + 1
          flushed := c.counters.flushed + BitVec.ofNat 32 c.held.length
          resync := c.counters.resync + 1 } }
     (p.quota ≤ c.queue.length → j.disp = .quotaDrop ∧
        j.ctx = { base with counters := { base.counters with quotaDrop := base.counters.quotaDrop + 1 } }) ∧
     (c.queue.length < p.quota → free + c.held.length = 0 → j.disp = .noBuffer ∧
        j.ctx = { base with counters := { base.counters with noBuffer := base.counters.noBuffer + 1 } }) ∧
     (c.queue.length < p.quota → 0 < free + c.held.length → j.disp = .accepted ∧
        j.ctx = { base with
          state := .seeding
          nes := b.cell.seq - BitVec.ofNat 16 (p.window / 2)
          seedingStamp := some b.stamp
          seedingDeadline := none
          held := [{ buffer := b, otherSeen := false }] }))) ∧
  ∀ (s : State) (p : Path) (h : Header) (payload : List Byte) (check : Check) (d : Time) (n : Index),
    s.reachesFlow p h payload check n →
    (s.flow n).state = .running → (s.flow n).runCount = 7 →
    (s.entry n).window.size ≤ seqDist (s.flow n).nes h.seq → seqDist (s.flow n).nes h.seq < 32768 →
    let e := s.entry n
    let c := s.flow n
    let now := (s.advance d).timeBase
    let b : Buffer :=
      { cell := { kind := h.kind, label := h.label, seq := h.seq, headerCheck := h.check, payload := payload,
                  payloadCheck := check }, path := p, stamp := now }
    let free := s.pool.free + c.held.length
    let base : Ctx := { c with
      state := .unseeded
      gapDeadline := none
      held := []
      history := List.replicate 64 .none
      runCount := 0
      counters := { c.counters with
        outOfWindow := c.counters.outOfWindow + 1
        flushed := c.counters.flushed + BitVec.ofNat 32 c.held.length
        resync := c.counters.resync + 1 } }
    let marked : Ctx := { base with
      state := .seeding
      nes := h.seq - BitVec.ofNat 16 (e.window.size / 2)
      seedingStamp := some now
      seedingDeadline := none
      held := [{ buffer := b, otherSeen := false }] }.setPres p (s.markedBy now)
    let hold := if e.policy = .both ∧ marked.presA.present = true ∧ marked.presB.present = true
      then e.hold.toNat * 100 else e.loneHold.toNat * 100
    ∃ t : State, exec (.cellLastByte p payload (checkBytes check) d) s = .next t ∧ hasKind t.alarms.latched .resync = true ∧
      (e.quota.toNat ≤ c.queue.length →
        t.flow n = { base with counters := { base.counters with quotaDrop := base.counters.quotaDrop + 1 } } ∧
        t.pool = { s.pool with free := free }) ∧
      (c.queue.length < e.quota.toNat → free = 0 →
        t.flow n = { base with counters := { base.counters with noBuffer := base.counters.noBuffer + 1 } } ∧
        t.pool = s.pool) ∧
      (c.queue.length < e.quota.toNat → 0 < free →
        marked.settlesTo e hold now (hasKind t.alarms.latched .loss = true) (t.flow n) ∧
        t.pool = { free := free - 1, lowWater := min s.pool.lowWater (free - 1) }) ∧
      State.onlyFlow n { (s.advance d).setRx p { s.rx p with reception := none } with pool := t.pool } t

/-- CELL_LAST_BYTE of the first good cell of an UNSEEDED flow with room and a free buffer, where the applicable hold is not
0: the cell is held, NES is its number minus half the window, its stamp is the seeding stamp, the seeding deadline is
that stamp plus the applicable hold, and its path is PRESENT; one buffer leaves the free list; no other flow and nothing
else changes but alarms and the notification-pending flag (R14, R27, R29, R51, R70). That the hold that applies is chosen
with the path already PRESENT is the model's choice (assumption 27). -/
def Obligations.FirstArrivalSeedsTheFlow : Prop :=
  ∀ (s : State) (p : Path) (h : Header) (payload : List Byte) (check : Check) (d : Time) (n : Index),
    s.phase = .active → s.rx p = { s.rx p with state := .up, reception := some h } → payload.length = 54 →
    payloadPasses payload check = true → h.label ≠ managementLabel → s.flows.length = 128 →
    s.tables.active.sound → (s.entry n).valid = true → (s.entry n).inLabel = h.label →
    (s.entry n).policy.uses p = true → (s.flow n).state = .unseeded →
    (s.flow n).occupancy < (s.entry n).quota.toNat → s.pool.free ≠ 0 →
    let now := (s.advance d).timeBase
    let b : Buffer :=
      { cell := { kind := h.kind, label := h.label, seq := h.seq, headerCheck := h.check, payload := payload,
                  payloadCheck := check }, path := p, stamp := now }
    let marked := (s.flow n).setPres p
      { present := true, last := some now,
        expiry := some (now + BitVec.ofNat 48 (s.tables.settings.pathTimeout.toNat * 100000)) }
    let hold := if (s.entry n).policy = .both ∧ marked.presA.present = true ∧ marked.presB.present = true
      then (s.entry n).hold.toNat * 100 else (s.entry n).loneHold.toNat * 100
    hold ≠ 0 →
    ∃ t : State, exec (.cellLastByte p payload (checkBytes check) d) s = .next t ∧
      t.flow n = { marked with
        state := .seeding
        nes := h.seq - BitVec.ofNat 16 ((s.entry n).window.size / 2)
        seedingStamp := some now
        seedingDeadline := some (now + BitVec.ofNat 48 hold)
        gapDeadline := none
        held := [{ buffer := b, otherSeen := false }]
        history := List.replicate 64 .none
        runCount := 0 } ∧
      t.pool = { free := s.pool.free - 1, lowWater := min s.pool.lowWater (s.pool.free - 1) } ∧
      State.onlyFlow n { (s.advance d).setRx p { s.rx p with reception := none } with pool := t.pool } t

/-- CELL_LAST_BYTE of a good cell at NES of a RUNNING flow that holds nothing, with room and a free buffer: the cell is
released at once, relabelled and renumbered as the entry says, to the tail of the queue; NES, history, EMITTED and
ACCEPTED advance; the run count is 0 and its path PRESENT; the flow joins the tail of its class ring when its queue was
empty; one buffer leaves the free list; nothing else changes but alarms and the notification-pending flag
(R14, R32, R39, R41, R51, R70, R84). -/
def Obligations.ArrivalAtNesIsReleased : Prop :=
  ∀ (s : State) (p : Path) (h : Header) (payload : List Byte) (check : Check) (d : Time) (n : Index),
    s.phase = .active → s.rx p = { s.rx p with state := .up, reception := some h } → payload.length = 54 →
    payloadPasses payload check = true → h.label ≠ managementLabel → s.flows.length = 128 → s.sched.rings.length = 8 →
    s.tables.active.sound → (s.entry n).valid = true → (s.entry n).inLabel = h.label →
    (s.entry n).policy.uses p = true → (s.flow n).state = .running → (s.flow n).held = [] →
    h.seq = (s.flow n).nes → (s.flow n).queue.length < (s.entry n).quota.toNat → s.pool.free ≠ 0 →
    let now := (s.advance d).timeBase
    let c := s.flow n
    let sent : Buffer :=
      { cell := { kind := h.kind, label := (s.entry n).outLabel,
                  seq := if (s.entry n).renumber then c.renumber else h.seq, headerCheck := h.check,
                  payload := payload, payloadCheck := check }, path := p, stamp := now }
    ∃ t : State, exec (.cellLastByte p payload (checkBytes check) d) s = .next t ∧
      t.flow n = { c.setPres p
          { present := true, last := some now,
            expiry := some (now + BitVec.ofNat 48 (s.tables.settings.pathTimeout.toNat * 100000)) } with
        nes := c.nes + 1
        gapDeadline := none
        queue := c.queue ++ [sent]
        renumber := if (s.entry n).renumber then c.renumber + 1 else c.renumber
        runCount := 0
        history := (.emitted check p now false :: c.history).take 64
        counters := { c.counters with
          emitted := c.counters.emitted + 1
          acceptedA := if p = .a then c.counters.acceptedA + 1 else c.counters.acceptedA
          acceptedB := if p = .b then c.counters.acceptedB + 1 else c.counters.acceptedB } } ∧
      t.ring c.servingClass = (if c.queue = [] then s.ring c.servingClass ++ [n] else s.ring c.servingClass) ∧
      t.pool = { free := s.pool.free - 1, lowWater := min s.pool.lowWater (s.pool.free - 1) } ∧
      State.onlyFlow n { (s.advance d).setRx p { s.rx p with reception := none } with pool := t.pool } t

/-! ## Deadlines -/

/-- SEEDING_DEADLINE of a flow whose seeding deadline is reached: with nothing held the context is UNSEEDED, its seeding
stamp and deadline absent; else it is RUNNING, what it released is the in-order run from its lowest held number, in order,
to the tail of its queue, each counted EMITTED, what it still holds lies above, and NES has passed the run; nothing but
that flow, its ring, the alarms and the notification-pending flag changes (R30, R40, R56). Where a record beyond the run
is past its own gap deadline the expiry follows in the same step (R58), which the premise on the rest rules out. Context M
ends its seeding in the same way. With nothing held it is UNSEEDED. With cells held, none of the run being for this part, the
run is handed over in its order, each cell freeing its buffer and counting NOT_FOR_ME; a single cell that carries a command
for this part joins the command queue, where it waits while no reply place is free or a restart waits (R30, R47, R75, R152,
R153). -/
def Obligations.SeedingDeadlineEndsSeeding : Prop :=
  ∀ (s : State) (n : Index) (d : Time) (stamp : Time),
    let s1 := s.advance d
    (s.m.state = .seeding → s.m.seedingStamp = some stamp → s.m.held = [] → s.agent.commands = [] →
      s.tables.settings.managementHold.toNat * 100 ≤ (s1.timeBase - stamp).toNat →
      exec (.seedingDeadline .m d) s = .next
        { s1 with m := { s.m with state := .unseeded, seedingStamp := none, seedingDeadline := none } }) ∧
    (s.m.state = .seeding → s.m.seedingStamp = some stamp → s.agent.commands = [] →
      s.tables.settings.managementHold.toNat * 100 ≤ (s1.timeBase - stamp).toNat →
      ∀ (h : HeldRec) (run rest : List HeldRec), s.m.held = h :: (run ++ rest) →
      let hold := s.tables.settings.managementHold.toNat * 100
      let target (r : HeldRec) : Nat := (byteAt r.buffer.cell.payload 0).toNat
      let m := Ctx.afterRun Entry.default hold (h :: run) rest { s.m with
        state := .running, nes := h.buffer.cell.seq, seedingStamp := none, seedingDeadline := none }
      (∀ i : Nat, ∀ r : HeldRec, run[i]? = some r →
        r.buffer.cell.seq = h.buffer.cell.seq + BitVec.ofNat 16 (i + 1)) →
      (∀ r : HeldRec, rest.head? = some r →
        r.buffer.cell.seq ≠ h.buffer.cell.seq + BitVec.ofNat 16 (run.length + 1) ∧
        (s1.timeBase - r.buffer.stamp).toNat < hold) →
      s.pool.free + (run.length + 1) ≤ 2048 →
      ((∀ r ∈ h :: run, target r ≠ 31 ∧ target r ≠ s.agent.strap.toNat) →
        ∃ t : State, exec (.seedingDeadline .m d) s = .next t ∧
          t = { s1 with
            m := { m with queue := s.m.queue }
            pool := { s.pool with free := s.pool.free + (run.length + 1) }
            device := { s.device with notForMe := s.device.notForMe + BitVec.ofNat 32 (run.length + 1) }
            alarms := t.alarms }) ∧
      (run = [] → byteAt h.buffer.cell.payload 4 &&& 0x80 = 0 → target h = 31 ∨ target h = s.agent.strap.toNat →
        8 ≤ s.agent.replies.length ∨ s.agent.restartWaiting = true →
        ∃ t : State, exec (.seedingDeadline .m d) s = .next t ∧
          t = { s1 with
            m := { m with queue := s.m.queue }
            pool := { s.pool with free := s.pool.free + 1 }
            alarms := t.alarms
            agent := { s.agent with commands := [
              { target := byteAt h.buffer.cell.payload 0, tag := byteAt h.buffer.cell.payload 1,
                code := byteAt h.buffer.cell.payload 2,
                args := (h.buffer.cell.payload.drop 5 ++ List.replicate 49 0).take 49 }] } })) ∧
    (let c := s.flow n
    let hold := c.applicableHold (Params.ofEntry (s.entry n))
    s.flows.length = 128 → c.state = .seeding → c.seedingStamp = some stamp →
    hold ≤ (s1.timeBase - stamp).toNat →
    (c.held = [] → ∃ t : State, exec (.seedingDeadline (.flow n) d) s = .next t ∧
      t.flow n = { c with state := .unseeded, seedingStamp := none, seedingDeadline := none } ∧
      State.onlyFlow n s1 t) ∧
    (∀ (h : HeldRec) (run rest : List HeldRec), c.held = h :: (run ++ rest) →
      (∀ i : Nat, ∀ r : HeldRec, run[i]? = some r →
        r.buffer.cell.seq = h.buffer.cell.seq + BitVec.ofNat 16 (i + 1)) →
      (∀ r : HeldRec, rest.head? = some r →
        r.buffer.cell.seq ≠ h.buffer.cell.seq + BitVec.ofNat 16 (run.length + 1) ∧
        (s1.timeBase - r.buffer.stamp).toNat < hold) →
      ∃ t : State, exec (.seedingDeadline (.flow n) d) s = .next t ∧
        (t.flow n).state = .running ∧ (t.flow n).held = rest ∧
        (t.flow n).nes = h.buffer.cell.seq + BitVec.ofNat 16 (run.length + 1) ∧
        (t.flow n).queue.map (fun b => (b.cell.label, b.cell.payload, b.path, b.stamp))
          = c.queue.map (fun b => (b.cell.label, b.cell.payload, b.path, b.stamp))
            ++ (h :: run).map (fun r =>
                ((s.entry n).outLabel, r.buffer.cell.payload, r.buffer.path, r.buffer.stamp)) ∧
        (t.flow n).counters.emitted = c.counters.emitted + BitVec.ofNat 32 (run.length + 1) ∧
        (t.flow n).gapDeadline = rest.head?.map (fun r => r.buffer.stamp + BitVec.ofNat 48 hold) ∧
        State.onlyFlow n s1 t))

/-- GAP_EXPIRY of a flow whose gap deadline is reached: the numbers below the lowest held record are given up, SKIPPED and
counted LOST, LOSS is latched, and that record and the in-order run behind it join the tail of the queue, each EMITTED; a
further gap that is already past is given up in the same step, and no other record is released: what stays held is a later
part of the held set whose lowest record is neither at NES nor past, and the gap deadline is set from it; NES is one beyond
the last number released; the renumber counter advances once for each cell released under RENUMBER and not for the numbers
given up; presence and run count stand; nothing but that flow, its ring, the alarms and the notification-pending flag
changes (R23, R39, R40, R41, R56, R58, R59). In context M the waits and the giving up are the same; stated for one held cell
that is not for this part, a buffer therefore being in use: it is handed over, its buffer is free, and NOT_FOR_ME counts it
(R61, R75, R152). -/
def Obligations.GapExpiryGivesUpAndReleases : Prop :=
  ∀ (s : State) (n : Index) (d : Time) (h : HeldRec) (above : List HeldRec),
    let s1 := s.advance d
    (s.m.state = .running → s.m.held = [h] → s.agent.commands = [] → s.pool.free < 2048 →
      s.tables.settings.managementHold.toNat * 100 ≤ (s1.timeBase - h.buffer.stamp).toNat →
      (byteAt h.buffer.cell.payload 0).toNat ≠ 31 →
      (byteAt h.buffer.cell.payload 0).toNat ≠ s.agent.strap.toNat →
      ∃ t : State, exec (.gapExpiry .m d) s = .next t ∧ t.m.held = [] ∧ t.m.state = .running ∧
        t.m.nes = h.buffer.cell.seq + 1 ∧ t.m.gapDeadline = none ∧
        t.m.counters.lost = s.m.counters.lost + BitVec.ofNat 32 (seqDist s.m.nes h.buffer.cell.seq) ∧
        t.m.counters.emitted = s.m.counters.emitted + 1 ∧ hasKind t.alarms.latched .loss = true ∧
        t = { s1 with
          m := t.m, pool := { s.pool with free := s.pool.free + 1 }, alarms := t.alarms
          device := { s.device with notForMe := s.device.notForMe + 1 }
          agent := { s.agent with notifyPending := t.agent.notifyPending } }) ∧
    (let c := s.flow n
    let hold := c.applicableHold (Params.ofEntry (s.entry n))
    s.flows.length = 128 → c.state = .running → c.held = h :: above →
    hold ≤ (s1.timeBase - h.buffer.stamp).toNat →
    ∃ t : State, exec (.gapExpiry (.flow n) d) s = .next t ∧
      c.releasesFrom (s.entry n) hold s1.timeBase h above (t.flow n) ∧
      hasKind t.alarms.latched .loss = true ∧ State.onlyFlow n s1 t)

/-- PRESENCE_EXPIRY of a record whose path timeout has passed since its last marking arrival: the path becomes ABSENT for
that context, its stamp kept and the other path's record as it was; nothing but that context, its ring, the alarms and
the notification-pending flag changes (R52, R57). For context M nothing at all follows, its hold being the same whatever
its presence (R55). -/
def Obligations.PresenceExpiryMakesPathAbsent : Prop :=
  ∀ (s : State) (p : Path) (d : Time) (stamp : Time),
    let s1 := s.advance d
    s.flows.length = 128 →
    s.tables.settings.pathTimeout.toNat * 100000 ≤ (s1.timeBase - stamp).toNat →
    (∀ n : Index, ((s.flow n).pres p).present = true → ((s.flow n).pres p).last = some stamp →
      ∃ t : State, exec (.presenceExpiry (.flow n) p d) s = .next t ∧
        (t.flow n).pres p = { present := false, last := some stamp, expiry := none } ∧
        (t.flow n).pres (otherPath p) = (s.flow n).pres (otherPath p) ∧ State.onlyFlow n s1 t) ∧
    ((s.m.pres p).present = true → (s.m.pres p).last = some stamp →
      exec (.presenceExpiry .m p d) s = .next
        { s1 with m := s.m.setPres p { present := false, last := some stamp, expiry := none } })

/-! ## Round boundary and commit -/

/-- ROUND_BOUNDARY, once the cell time of the last position has run (the flag that says so is the model's own,
assumption 8): with no commit outstanding the position becomes 0 and nothing else changes. With one outstanding, the
ACTIVE bank takes the PENDING contents, PENDING and the Settings stand, the commit state is NONE, the oldest place
reserved for COMMIT holds its reply, status OK with the reserved tag, and every other place stands; the position is
0. An index whose entries are both invalid or equal has no consequence, one that turns valid is UNSEEDED for the new
flow with counters, skew, presence, NES and renumber counter cleared, its queue kept and the new class. One that
stays valid with its in-label and differs otherwise keeps its context, with the records beyond a smaller window
flushed and counted, an excluded path ABSENT, the new serving class, and its deadline under the new entry: a
deadline recomputed to the past is reached at the boundary, its releases under the new entry; a change of hold, lone
hold or policy recomputes it even to the value it had. Where only that index differs, the flushed buffers are free
and the flow moves to, or joins, the tail of its new ring. Receivers, transmitters, store, device counters, strays
and context M are untouched (R81, R82, R84, R86, R138 to R140, R144 to R147, R156; the consequences' order inside
one index is assumption 12, and that an emptied SEEDING context's deadline is recomputed assumption 30). -/
def Obligations.RoundBoundaryWrapsAndCommits : Prop :=
  ∀ (s : State) (d : Time), s.phase = .active → s.sched.slotUsed = true →
    s.tables.active.calendar.length ≤ s.sched.position + 1 →
    (s.tables.commit = .none → exec (.roundBoundary d) s = .next
      { s.advance d with sched := { s.sched with position := 0, slotUsed := false } }) ∧
    (∀ (tag tag' : Byte) (before behind : List Place), s.tables.commit = .outstanding tag → s.flows.length = 128 →
    s.agent.replies = before ++ .reserved tag' commitCode :: behind →
    (∀ t', Place.reserved t' commitCode ∉ before) →
    ∃ t : State, exec (.roundBoundary d) s = .next t ∧
      t.tables = { s.tables with active := s.tables.pendingBank, commit := .none } ∧
      t.sched.position = 0 ∧ t.sched.slotUsed = false ∧
      t.agent = { s.agent with
        notifyPending := t.agent.notifyPending
        replies := before ++ .filled { source := s.agent.source, tag := tag', code := commitCode, status := .ok,
                                       result := [], restartsFull := false } :: behind } ∧
      t = { s.advance d with flows := t.flows, tables := t.tables, sched := t.sched, pool := t.pool, alarms := t.alarms,
                             agent := t.agent } ∧
      (∀ n : Index, (s.entry n).valid = false → (s.tables.pendingBank.entry n).valid = false →
        t.flow n = s.flow n) ∧
      (∀ n : Index, s.entry n = s.tables.pendingBank.entry n → t.flow n = s.flow n) ∧
      (∀ n : Index, (s.entry n).valid = false → (s.tables.pendingBank.entry n).valid = true →
        t.flow n = { Ctx.fresh .unseeded (s.tables.pendingBank.entry n).cls with queue := (s.flow n).queue }) ∧
      (∀ n : Index, (s.entry n).valid = true → (s.tables.pendingBank.entry n).valid = true →
        (s.entry n).inLabel = (s.tables.pendingBank.entry n).inLabel → s.entry n ≠ s.tables.pendingBank.entry n →
        let old := s.entry n
        let new := s.tables.pendingBank.entry n
        let c := s.flow n
        let now := s.timeBase + d
        let same : Bool := decide (old.hold = new.hold ∧ old.loneHold = new.loneHold ∧ old.policy = new.policy)
        let kept := if new.window.size < old.window.size
          then c.held.filter (fun r => decide (seqDist c.nes r.buffer.cell.seq < new.window.size)) else c.held
        let aligned (excluding : Policy) (r : Presence) : Presence :=
          if same = false ∧ new.policy = excluding then { r with present := false, expiry := none } else r
        let b : Ctx := { c with
          held := kept
          counters := { c.counters with
            flushed := c.counters.flushed + BitVec.ofNat 32 (c.held.length - kept.length) }
          presA := aligned .bOnly c.presA
          presB := aligned .aOnly c.presB
          servingClass := if old.cls = new.cls then c.servingClass else new.cls
          seedingDeadline := if same then c.seedingDeadline else none
          gapDeadline := if same then c.gapDeadline else none }
        let hold := if new.policy = .both ∧ b.presA.present = true ∧ b.presB.present = true
          then new.hold.toNat * 100 else new.loneHold.toNat * 100
        (c.state = .unseeded → t.flow n = b) ∧
        (c.state = .running → kept = [] → t.flow n = { b with gapDeadline := none }) ∧
        (∀ (h : HeldRec) (above : List HeldRec), c.state = .running → kept = h :: above → h.buffer.cell.seq ≠ c.nes →
          let due : Option Time := some (h.buffer.stamp + BitVec.ofNat 48 hold)
          (b.gapDeadline = due ∨ (now - h.buffer.stamp).toNat < hold → t.flow n = { b with gapDeadline := due }) ∧
          (b.gapDeadline ≠ due → hold ≤ (now - h.buffer.stamp).toNat →
            b.releasesFrom new hold now h above (t.flow n) ∧ hasKind t.alarms.latched .loss = true)) ∧
        (∀ stamp : Time, c.state = .seeding → c.seedingStamp = some stamp →
          let due : Option Time := some (stamp + BitVec.ofNat 48 hold)
          (b.seedingDeadline = due ∨ (now - stamp).toNat < hold → t.flow n = { b with seedingDeadline := due }) ∧
          (b.seedingDeadline ≠ due → hold ≤ (now - stamp).toNat →
            (kept = [] → t.flow n = { b with state := .unseeded, seedingStamp := none, seedingDeadline := none }) ∧
            ∀ (h : HeldRec) (above : List HeldRec), kept = h :: above →
              Ctx.releasesFrom new hold now h above
                { b with state := .running, nes := h.buffer.cell.seq, seedingStamp := none, seedingDeadline := none }
                (t.flow n))) ∧
        ((∀ i : Index, i ≠ n → s.entry i = s.tables.pendingBank.entry i) → s.sched.rings.length = 8 →
          c.servingClass = old.cls →
          t.pool = { s.pool with free := s.pool.free + (c.held.length - kept.length) } ∧
          ∀ k : Fin 8, t.ring k =
            if c.queue ≠ [] then
              if old.cls = new.cls then s.ring k
              else if k = new.cls then s.ring k ++ [n]
              else if k = old.cls then (s.ring k).filter (fun i => decide (i ≠ n)) else s.ring k
            else if k = new.cls ∧ (t.flow n).queue ≠ [] then s.ring k ++ [n] else s.ring k)))

/-- The commit release (R141): every held cell goes to the tail of the queue in its order with the old entry's out-label,
each counted EMITTED; LOST rises by exactly the numbers between, from NES in RUNNING and from the lowest held number in
SEEDING, and the release answers that numbers were given up exactly when there are any; NES is one beyond the last number
held; the held set is empty and both deadlines absent. -/
def Obligations.CommitReleaseSendsEveryHeldCell : Prop :=
  ∀ (e : Entry) (c : Ctx), c.state = .seeding ∨ c.state = .running →
    let r := c.commitRelease e
    r.1.held = [] ∧ r.1.gapDeadline = none ∧ r.1.seedingDeadline = none ∧
    r.1.queue.map (fun b => (b.cell.label, b.cell.payload, b.path, b.stamp))
      = c.queue.map (fun b => (b.cell.label, b.cell.payload, b.path, b.stamp))
        ++ c.held.map (fun h => (e.outLabel, h.buffer.cell.payload, h.buffer.path, h.buffer.stamp)) ∧
    r.1.counters.emitted = c.counters.emitted + BitVec.ofNat 32 c.held.length ∧
    r.1.renumber = (if e.renumber then c.renumber + BitVec.ofNat 16 c.held.length else c.renumber) ∧
    r.1.presA = c.presA ∧ r.1.presB = c.presB ∧ r.1.skew = c.skew ∧ r.1.servingClass = c.servingClass ∧
    r.1.nes = (match c.held.getLast? with | some h => h.buffer.cell.seq + 1 | none => c.nes) ∧
    (let start := match c.state, c.held with | .seeding, h :: _ => h.buffer.cell.seq | _, _ => c.nes
     r.1.counters.lost = c.counters.lost + BitVec.ofNat 32 (gapsBelow start c.held) ∧
     (c.held.length ≤ 256 → (r.2 = true ↔ gapsBelow start c.held ≠ 0)))

/-- ROUND_BOUNDARY of a commit that invalidates an entry, or replaces its in-label: the commit release first, under the old
entry. An invalidated context is then DRAINING or NONE by its queue, both paths ABSENT with their stamps kept, its
serving class, NES, history, skew and counters as the release left them; a relabelled one is UNSEEDED with its queue kept
and all else fresh, in the new entry's class (R139, R141, R142, R143). -/
def Obligations.CommitInvalidatesOrRelabels : Prop :=
  ∀ (s : State) (d : Time) (tag : Byte) (n : Index), s.phase = .active → s.sched.slotUsed = true →
    s.tables.active.calendar.length ≤ s.sched.position + 1 → s.tables.commit = .outstanding tag →
    s.flows.length = 128 → (s.entry n).valid = true →
    let new := s.tables.pendingBank.entry n
    let released := ((s.flow n).commitRelease (s.entry n)).1
    (new.valid = false → ∃ t : State, exec (.roundBoundary d) s = .next t ∧
      t.flow n = { released with
        state := if released.queue = [] then .none else .draining
        seedingStamp := none
        seedingDeadline := none
        gapDeadline := none
        runCount := 0
        presA := { released.presA with present := false, expiry := none }
        presB := { released.presB with present := false, expiry := none } }) ∧
    (new.valid = true → new.inLabel ≠ (s.entry n).inLabel → ∃ t : State, exec (.roundBoundary d) s = .next t ∧
      t.flow n = { Ctx.fresh .unseeded new.cls with queue := released.queue })

/-! ## Out -/

/-- OUT_CELL_TIME_START: a part held in reset sends no signal on Out, a starting part one idle cell, counted, the position
standing (R97). At work: the buffer of the cell sent returns to the free list; the position advances by one when a cell time
has used it, which the model's own bit `slotUsed` says (assumption 8), and stands when none has, as after a start or a round
boundary; from the last position it wraps to 0, the step taking a round boundary that is due and has no commit outstanding
itself (assumption 8); and the slot there decides. A class whose ring is non-empty is served; with LEND on and its ring empty
the lowest-numbered class whose ring is not; a served class sends the oldest queued cell of the flow at its head, formed
with both checks and restamped as `outCell` says, that flow's queue shrinks by it, a DRAINING flow whose queue is empty
becomes NONE, and the flow leaves the head of its ring for the tail, or the ring. An IDLE slot, or no ring to serve,
sends an idle cell and counts it (R74, R81, R85, R87, R88, R89, R92, R97). -/
def Obligations.OutCellTimeServesTheCalendar : Prop :=
  ∀ (s : State) (d : Time),
    (s.phase = .heldPower ∨ s.phase = .heldPin →
      exec (.outCellTimeStart d) s = .next { s with out := { s.out with line := none } }) ∧
    (s.phase = .starting →
      exec (.outCellTimeStart d) s = .next { s with
        timeBase := s.timeBase + d
        out := { buffer := none, line := some idleCell.wire }
        device := { s.device with idleSent := s.device.idleSent + 1 } }) ∧
    (s.phase = .active → s.flows.length = 128 → s.sched.rings.length = 8 →
    (s.sched.slotUsed = true → s.sched.position + 1 < s.tables.active.calendar.length ∨ s.tables.commit = .none) →
    let position := if s.sched.slotUsed = true then
        (if s.sched.position + 1 < s.tables.active.calendar.length then s.sched.position + 1 else 0)
      else s.sched.position
    let slot := s.tables.active.calendar.slot position
    let free := s.pool.free + s.out.buffer.toList.length
    let sched : Scheduler := { s.sched with position := position, slotUsed := true }
    let now := s.timeBase + d
    ((slot = .idle ∨
        (∃ k, slot = .cls k ∧ s.ring k = [] ∧
          (s.tables.active.calendar.lend = false ∨ ∀ j : Fin 8, s.ring j = []))) →
      ∃ t : State, exec (.outCellTimeStart d) s = .next t ∧
        t = { s with
          timeBase := now, sched := sched, pool := { s.pool with free := free }
          out := { buffer := none, line := some idleCell.wire }
          device := { s.device with idleSent := s.device.idleSent + 1 }
          alarms := t.alarms }) ∧
    (∀ (k j : Fin 8) (n : Index) (others : List Index) (b : Buffer) (rest : List Buffer),
      slot = .cls k → s.ring j = n :: others → (s.flow n).queue = b :: rest →
      (j = k ∨ (s.ring k = [] ∧ s.tables.active.calendar.lend = true ∧ ∀ i : Fin 8, i < j → s.ring i = [])) →
      ∃ t : State, exec (.outCellTimeStart d) s = .next t ∧
        t.out = { buffer := some b, line := some (outCell (s.entry n) now b).wire } ∧
        t.flow n = { s.flow n with
          queue := rest
          state := if rest = [] ∧ (s.flow n).state = .draining then .none else (s.flow n).state
          counters := if saturates (s.entry n) now b = true then
            { (s.flow n).counters with correctionSaturated := (s.flow n).counters.correctionSaturated + 1 }
            else (s.flow n).counters } ∧
        (∀ i : Index, i ≠ n → t.flow i = s.flow i) ∧
        t.ring j = (if rest = [] then others else others ++ [n]) ∧
        (∀ i : Fin 8, i ≠ j → t.ring i = s.ring i) ∧
        t = { s with
          timeBase := now, flows := t.flows, sched := { sched with rings := t.sched.rings }, out := t.out
          pool := { s.pool with free := free }, alarms := t.alarms }))

/-- Every cell stands on its line as 64 bytes: the six header bytes, the 54 payload bytes, and the payload check in bytes 60
to 63, most significant byte first (section 12.1, R202). The cell a transmitter forms: kind, label and sequence number are the buffer's. A CLOCK cell whose entry is valid with
restamp on carries its correction plus its residence, exactly, saturating at 2,147,483,647, every other payload byte as it
arrived; any other cell carries its payload unchanged; both checks are those a receiver computes, so the header and the
payload pass (R92, R93, R106, R107, R108, R202). -/
def Obligations.OutCellIsRestampedAndChecked : Prop :=
  (∀ c : Cell, c.payload.length = 54 →
    c.wire.length = 64 ∧ c.wire.take 6 = wireBytes c.wireHeader ∧ (c.wire.drop 6).take 54 = c.payload ∧
    c.wire.drop 60 = [c.payloadCheck.extractLsb' 24 8, c.payloadCheck.extractLsb' 16 8,
      c.payloadCheck.extractLsb' 8 8, c.payloadCheck.extractLsb' 0 8]) ∧
  ∀ (e : Entry) (now : Time) (b : Buffer), b.cell.payload.length = 54 →
    let c := outCell e now b
    let sum : Int := correctionOf b.cell.payload + ((now - b.stamp).toNat : Int)
    c.kind = b.cell.kind ∧ c.label = b.cell.label ∧ c.seq = b.cell.seq ∧
    headerPasses c.wireHeader = true ∧ payloadPasses c.payload c.payloadCheck = true ∧
    wireKind c.wireHeader = some b.cell.kind ∧ wireLabel c.wireHeader = b.cell.label ∧
    wireSeq c.wireHeader = b.cell.seq ∧ c.payload.length = 54 ∧
    (b.cell.kind = .clock ∧ e.valid = true ∧ e.restamp = true →
      correctionOf c.payload = min sum 2147483647 ∧
      c.payload.take 6 = b.cell.payload.take 6 ∧ c.payload.drop 10 = b.cell.payload.drop 10 ∧
      (saturates e now b = true ↔ 2147483647 < sum)) ∧
    (¬ (b.cell.kind = .clock ∧ e.valid = true ∧ e.restamp = true) →
      c.payload = b.cell.payload ∧ saturates e now b = false)

/-! ## The return directions and notifications -/

/-- RETURN_CELL_TIME: a part held in reset sends no signal; a starting part, and a working one whose reply queue holds no
filled place, an idle cell, the counter and the flags untouched. Else the oldest filled place is taken, reserved places
ahead of it keeping theirs, and sent with kind MGMT, label 4095, the reply sequence number, the flags in force and both
checks; the counter advances and both flags are clear (R127 to R130). With no command waiting, or a restart waiting, nothing
else happens. Taken from a full reply queue, with commands waiting, the head of the command queue executes in that step into
the freed place, with the effect its own row has on an empty queue, and the commands behind it wait (R154). Stated for a
taken reply that is not RESTART FULL's, with context M settled, and for a head that changes Settings with context M holding
nothing; the ADDR level is only sampled (assumption 17), and the head's executing inside the step is assumption 6. -/
def Obligations.ReturnCellTimeSendsTheOldestReply : Prop :=
  ∀ (s : State) (addr : BitVec 5) (d : Time),
    (s.phase = .heldPower ∨ s.phase = .heldPin →
      exec (.returnCellTime addr d) s = .next { s with addrPins := addr, ret := { s.ret with line := none } }) ∧
    (s.phase = .starting ∨ (s.phase = .active ∧ ∀ p ∈ s.agent.replies, p.reservation.isSome = true) →
      exec (.returnCellTime addr d) s = .next
        { s with timeBase := s.timeBase + d, addrPins := addr, ret := { s.ret with line := some idleCell.wire } }) ∧
    (∀ (ahead behind : List Place) (r : Reply), s.phase = .active →
      s.agent.replies = ahead ++ .filled r :: behind → (∀ p ∈ ahead, p.reservation.isSome = true) →
      r.restartsFull = false → s.m.settled s.mParams s.timeBase →
      r.result.length ≤ 49 →
      let taken : State :=
        { s with
          timeBase := s.timeBase + d
          addrPins := addr
          ret := { line := some (formCell .mgmt 4095 s.ret.seq
                     ([r.source, r.tag, r.code, r.status.code,
                        (0x80 : Byte) ||| (if s.agent.overrun then 2 else 0) ||| (if s.agent.integrity then 1 else 0)]
                      ++ r.result ++ List.replicate (49 - r.result.length) 0)).wire
                   seq := s.ret.seq + 1 }
          agent := { s.agent with replies := ahead ++ behind, overrun := false, integrity := false } }
      (s.agent.commands = [] ∨ s.agent.restartWaiting = true →
        exec (.returnCellTime addr d) s = .next taken) ∧
      (∀ (i : Instr) (c : Command) (waiting : List Command),
        s.agent.commands = c :: waiting → s.agent.restartWaiting = false → s.agent.replies.length = 8 →
        handsOver i = some (c.code, c.target, c.tag, c.args) → c.args.length = 49 →
        c.target.toNat = 31 ∨ c.target.toNat = s.agent.strap.toNat →
        c.code ≠ 0x29 ∧ c.code ≠ 0x39 ∨ s.m.held = [] →
        ∃ u : State, exec i { taken with agent := { taken.agent with commands := [] } } = .next u ∧
          exec (.returnCellTime addr d) s = .next { u with agent := { u.agent with commands := waiting } }))

/-- RETURN_CELL_TIME that takes the reply to RESTART FULL applies and releases a full reset in that step: the reply leaves
whole with the sequence number it was given, the counter is then 0, the part is STARTING with the Time Base at 0, the
strap address sampled, both queues and all flags empty, the receivers out of DOWN where there is signal, the store's slots
kept, and the cell on Out completes (R96, R100, R131, R151, R195, R199). That the banks stand at the defaults and every flow
context at NONE until the load instant is assumption 4, and that the step carries and keeps the level of the ADDR pins
assumption 17. -/
def Obligations.RestartFullTakesEffectWithItsReply : Prop :=
  ∀ (s : State) (addr : BitVec 5) (d : Time) (ahead behind : List Place) (r : Reply), s.phase = .active →
    s.agent.replies = ahead ++ .filled r :: behind → (∀ p ∈ ahead, p.reservation.isSome = true) →
    r.restartsFull = true → s.store.state = .idle →
    exec (.returnCellTime addr d) s = .next
      { State.reset with
        pending := s.pending
        phase := .starting
        addrPins := addr
        agent := { State.reset.agent with strap := addr }
        rxA := { State.reset.rxA with signal := s.rxA.signal, state := if s.rxA.signal then .hunt else .down }
        rxB := { State.reset.rxB with signal := s.rxB.signal, state := if s.rxB.signal then .hunt else .down }
        out := { buffer := none, line := s.out.line }
        ret := { line := some (formCell .mgmt 4095 s.ret.seq
                   (replyPayload r s.agent.overrun s.agent.integrity)).wire, seq := 0 }
        store := s.store }

/-- NOTIFY, with the notification-pending flag set, the command queue empty, a place free and no restart waiting: a
notification with the latched kinds, the holding conditions and the Time Base joins the tail of the reply queue, tag 0,
code NOTIFY, status OK, and the flag is clear; nothing else changes (R160). -/
def Obligations.NotifyFormsANotification : Prop :=
  ∀ s : State, s.phase = .active → s.agent.notifyPending = true → s.agent.commands = [] →
    s.agent.replies.length < 8 → s.agent.restartWaiting = false →
    exec .notify s = .next { s with agent := { s.agent with
      notifyPending := false
      replies := s.agent.replies ++ [.filled
        { source := s.agent.source, tag := 0, code := 0x7F, status := .ok,
          result := encodeKinds s.alarms.latched ++ encodeKinds s.alarms.holding ++ encodeTime s.timeBase,
          restartsFull := false }] } }

/-- SAVE_WRITE_END of a write: with the written slot VALID, that slot holds the image and the oldest place reserved for
SAVE is filled OK; with it INVALID, the slot stays INVALID, the place is filled STORE_FAILED and STORE_FAILED latches; the
result names slot and generation, the store is IDLE, the other slot stands, and nothing else changes (R156, R191). -/
def Obligations.SaveWriteEndFillsItsReply : Prop :=
  ∀ (s : State) (d : Time) (slot : Bool) (image : Image) (tag : Byte) (before behind : List Place),
    s.store.state = .writing slot image →
    s.agent.replies = before ++ .reserved tag saveCode :: behind → (∀ t', Place.reserved t' saveCode ∉ before) →
    let written (i : Option Image) : Store :=
      { s.store with
        slot0 := if slot then s.store.slot0 else i, slot1 := if slot then i else s.store.slot1, state := .idle }
    let replies (st : Status) : List Place := before ++ .filled
      { source := s.agent.source, tag := tag, code := saveCode, status := st,
        result := [if slot then 1 else 0] ++ encodeCount image.generation, restartsFull := false } :: behind
    exec (.saveWriteEnd true d) s
        = .next { s.advance d with store := written (some image), agent := { s.agent with replies := replies .ok } } ∧
      ∃ t : State, exec (.saveWriteEnd false d) s = .next t ∧
        t = { s.advance d with
          store := written none
          agent := { s.agent with replies := replies .storeFailed, notifyPending := t.agent.notifyPending }
          alarms := t.alarms } ∧
        t.alarms.holding = s.alarms.holding ∧ t.alarms.latched = s.alarms.latched ||| AlarmKind.storeFailed.mask ∧
        t.agent.notifyPending = (s.agent.notifyPending ||
          (!hasKind s.alarms.latched .storeFailed && hasKind s.tables.settings.notifyMask .storeFailed))

/-- A step whose cause is not there passes its ticks and changes nothing else (the model's choice, assumption 7): a
load instant outside STARTING, a release of a part that is not held, bytes outside HUNT or none at all, a header
with no boundary, a last byte with no cell in reception, a seeding deadline outside SEEDING, a gap deadline outside
RUNNING, a deadline or presence expiry that is not reached, a round boundary before the last position has run, a
notification outside the working phase, not pending, behind a command, without a place or while a restart waits, the
end of a write while the store is IDLE. -/
def Obligations.StepsWithoutTheirCauseOnlyPassTime : Prop :=
  ∀ (s : State) (p : Path) (bytes payload check : List Byte) (header : BitVec 48) (i : ContextId) (ok : Bool)
    (addr : BitVec 5) (d : Time),
    let s1 := s.advance d
    (s.phase ≠ .starting → exec (.loadInstant d) s = .next s1) ∧
    (s.phase.counting = true → exec (.resetRelease addr) s = .next s) ∧
    ((s.rx p).state ≠ .hunt ∨ bytes = [] → exec (.huntCandidatePasses p bytes d) s = .next s1) ∧
    ((s.rx p).state = .down ∨ (s.rx p).state = .hunt → exec (.headerAtBoundary p header d) s = .next s1) ∧
    ((s.rx p).reception = none → exec (.cellLastByte p payload check d) s = .next s1) ∧
    ((s.ctx i).state ≠ .seeding ∨ (∀ stamp, (s.ctx i).seedingStamp = some stamp →
        (s1.timeBase - stamp).toNat < (s.ctx i).applicableHold (s.params i)) →
      exec (.seedingDeadline i d) s = .next s1) ∧
    ((s.ctx i).state ≠ .running ∨ (∀ h ∈ (s.ctx i).held.head?,
        (s1.timeBase - h.buffer.stamp).toNat < (s.ctx i).applicableHold (s.params i)) →
      exec (.gapExpiry i d) s = .next s1) ∧
    (((s.ctx i).pres p).present = false ∨ (∀ stamp, ((s.ctx i).pres p).last = some stamp →
        (s1.timeBase - stamp).toNat < s.tables.settings.pathTimeout.toNat * 100000) →
      exec (.presenceExpiry i p d) s = .next s1) ∧
    (s.phase ≠ .active ∨ s.sched.slotUsed = false ∨ s.sched.position + 1 < s.tables.active.calendar.length →
      exec (.roundBoundary d) s = .next s1) ∧
    (s.phase ≠ .active ∨ s.agent.notifyPending = false ∨ s.agent.commands ≠ [] ∨ 8 ≤ s.agent.replies.length ∨
        s.agent.restartWaiting = true →
      exec .notify s = .next s) ∧
    (s.store.state = .idle → exec (.saveWriteEnd ok d) s = .next s1)

/-! ## The Management Agent: hand-over -/

/-- CELL_LAST_BYTE of a good MGMT cell at NES of a RUNNING context M that holds nothing, with a free buffer (of the
2,048 there are): NES, history, EMITTED and ACCEPTED advance, its path is PRESENT, the buffer it took is free again
at once and the low-water mark has followed the fall (R47, R75, R79). The cell is handed to the agent: one with the
REPLY flag or another target counts NOT_FOR_ME; a command for this part joins a command queue of fewer than 4, and
at 4 it is lost with OVERRUN counted, the OVERRUN flag set and MGMT_OVERRUN latched (R152, R153). Stated where the
command cannot execute at once. -/
def Obligations.ContextMHandsCellsToTheAgent : Prop :=
  ∀ (s : State) (p : Path) (h : Header) (payload : List Byte) (check : Check) (d : Time),
    s.phase = .active → s.rx p = { s.rx p with state := .up, reception := some h } → payload.length = 54 →
    payloadPasses payload check = true → h.label = managementLabel → s.m.state = .running → s.m.held = [] →
    s.m.queue = [] → h.seq = s.m.nes → s.pool.free ≠ 0 → s.pool.free ≤ 2048 →
    (8 ≤ s.agent.replies.length ∨ s.agent.restartWaiting = true) →
    let now := (s.advance d).timeBase
    let forMe := byteAt payload 4 &&& 0x80 = 0 ∧
      ((byteAt payload 0).toNat = 31 ∨ (byteAt payload 0).toNat = s.agent.strap.toNat)
    let cmd : Command :=
      { target := byteAt payload 0, tag := byteAt payload 1, code := byteAt payload 2, args := payload.drop 5 }
    ∃ t : State, exec (.cellLastByte p payload (checkBytes check) d) s = .next t ∧
      t.m = { s.m.setPres p
          { present := true, last := some now,
            expiry := some (now + BitVec.ofNat 48 (s.tables.settings.pathTimeout.toNat * 100000)) } with
        nes := s.m.nes + 1
        gapDeadline := none
        runCount := 0
        history := (.emitted check p now false :: s.m.history).take 64
        counters := { s.m.counters with
          emitted := s.m.counters.emitted + 1
          acceptedA := if p = .a then s.m.counters.acceptedA + 1 else s.m.counters.acceptedA
          acceptedB := if p = .b then s.m.counters.acceptedB + 1 else s.m.counters.acceptedB } } ∧
      t.pool = { free := s.pool.free, lowWater := min s.pool.lowWater (s.pool.free - 1) } ∧
      (¬ forMe → t.device = { s.device with notForMe := s.device.notForMe + 1 } ∧
        t.agent = { s.agent with notifyPending := t.agent.notifyPending }) ∧
      (forMe → s.agent.commands.length < 4 → t.device = s.device ∧
        t.agent = { s.agent with commands := s.agent.commands ++ [cmd], notifyPending := t.agent.notifyPending }) ∧
      (forMe → 4 ≤ s.agent.commands.length → t.device = { s.device with overrun := s.device.overrun + 1 } ∧
        t.agent = { s.agent with overrun := true, notifyPending := t.agent.notifyPending } ∧
        hasKind t.alarms.latched .mgmtOverrun = true) ∧
      t = { (s.advance d).setRx p { s.rx p with reception := none } with
        m := t.m, pool := t.pool, device := t.device, agent := t.agent, alarms := t.alarms }

/-- A command of the table while the agent cannot execute it, with context M settled: held in reset or STARTING it reaches
nothing (R150); for another part it counts NOT_FOR_ME; for this part it waits at the tail of a command queue of fewer than
4 while no reply place is free or a restart waits, and at 4 it is lost with OVERRUN counted, the OVERRUN flag set and
MGMT_OVERRUN latched (R152, R153, R154, R172). Its arrival is the model's hand-over (assumption 5). -/
def Obligations.CommandsThatCannotExecuteWait : Prop :=
  ∀ (s : State) (i : Instr) (code target tag : Byte) (args : List Byte),
    handsOver i = some (code, target, tag, args) → args.length = 49 → s.m.settled s.mParams s.timeBase →
    (s.phase ≠ .active → exec i s = .next s) ∧
    (s.phase = .active → target.toNat ≠ 31 → target.toNat ≠ s.agent.strap.toNat → s.agent.commands = [] →
      exec i s = .next { s with device := { s.device with notForMe := s.device.notForMe + 1 } }) ∧
    (s.phase = .active → target.toNat = 31 ∨ target.toNat = s.agent.strap.toNat →
      8 ≤ s.agent.replies.length ∨ s.agent.restartWaiting = true →
      (s.agent.commands.length < 4 → exec i s = .next { s with agent := { s.agent with
        commands := s.agent.commands ++ [{ target := target, tag := tag, code := code, args := args }] } }) ∧
      (4 ≤ s.agent.commands.length → ∃ t : State, exec i s = .next t ∧
        t = { s with
          device := { s.device with overrun := s.device.overrun + 1 }
          agent := { s.agent with overrun := true, notifyPending := t.agent.notifyPending }
          alarms := { s.alarms with latched := s.alarms.latched ||| AlarmKind.mgmtOverrun.mask } }))

/-! ## The Management Agent: commands -/

/-- ECHO returns its 49 argument bytes with status OK and changes nothing else; a code that names no command is refused
with BAD_COMMAND, the reply carrying the code received, and has no other effect (R155, R162). -/
def Obligations.EchoAndUnknownCodes : Prop :=
  ∀ (s : State) (target tag code : Byte) (args : List Byte), s.agentReady target → args.length = 49 →
    exec (.echo target tag args) s = .next (s.replied tag 0x01 .ok args) ∧
      (code ∉ commandCodes →
        exec (.badCommand target tag code args) s = .next (s.replied tag code .badCommand []))

/-- GET_STATUS reports receiver states, free count, low-water mark, commit and store state, strap address and Time Base at
its execution; with the clear option the low-water mark becomes the free count after both are taken; it changes nothing
else (R79, R163). -/
def Obligations.GetStatusReports : Prop :=
  ∀ (s : State) (target tag : Byte) (args : List Byte), s.agentReady target → args.length = 49 →
    let result := [s.rxA.state.byte, s.rxB.state.byte] ++ beBytes 2 s.pool.free ++ beBytes 2 s.pool.lowWater
      ++ [s.tables.commit.byte, s.store.state.byte, s.agent.strap.zeroExtend 8] ++ beBytes 6 s.timeBase.toNat
    exec (.getStatus target tag args) s = .next (State.replied tag 0x02 .ok result
      (if byteAt args 0 = 0 then s else { s with pool := { s.pool with lowWater := s.pool.free } }))

/-- GET_ENTRY returns the entry of the bank and index it names, GET_SLOTS the bank's header and the named slots; neither
changes anything (R9, R164). -/
def Obligations.GetEntryAndSlotsReadABank : Prop :=
  ∀ (s : State) (target tag : Byte) (args : List Byte) (bank : Bank), s.agentReady target → args.length = 49 →
    (byteAt args 0 = 0 ∧ bank = s.tables.active ∨ byteAt args 0 = 1 ∧ bank = s.tables.pendingBank) →
    (∀ n : Index, (byteAt args 1).toNat = n.val →
      exec (.getEntry target tag args) s = .next (s.replied tag 0x10 .ok (encodeEntry (bank.entry n)))) ∧
    (1 ≤ (byteAt args 2).toNat → (byteAt args 2).toNat ≤ 32 → (byteAt args 1).toNat + (byteAt args 2).toNat ≤ 128 →
      exec (.getSlots target tag args) s = .next (s.replied tag 0x12 .ok
        ([BitVec.ofNat 8 bank.calendar.length, if bank.calendar.lend then 1 else 0]
          ++ (List.range (byteAt args 2).toNat).map (fun i =>
            match bank.calendar.slot ((byteAt args 1).toNat + i) with
            | .idle => (0xFF : Byte)
            | .cls c => BitVec.ofNat 8 c.val))))

/-- With no commit outstanding, PUT_ENTRY replaces the whole PENDING entry it names, PUT_SLOTS the named positions and
PUT_CAL_HEADER length and LEND together, and each replies OK; nothing else changes: not the ACTIVE bank, no context, no
other entry or slot (R9, R132, R164). -/
def Obligations.PutsWriteThePendingBank : Prop :=
  ∀ (s : State) (target tag : Byte) (args : List Byte), s.agentReady target → args.length = 49 →
    s.tables.commit = .none →
    let written (bank : Bank) : State := { s with tables := { s.tables with pendingBank := bank } }
    let old := s.tables.pendingBank
    (∀ (n : Index) (e : Entry), (byteAt args 0).toNat = n.val → decodeEntry args 1 = some e →
      exec (.putEntry target tag args) s
        = .next (State.replied tag 0x11 .ok [] (written { old with entries := old.entries.set n.val e }))) ∧
    (∀ (first : Nat) (slots : List Slot), (byteAt args 0).toNat = first → (byteAt args 1).toNat = slots.length →
      1 ≤ slots.length → slots.length ≤ 32 → first + slots.length ≤ 128 → old.calendar.slots.length = 128 →
      (∀ i : Nat, i < slots.length → decodeSlot (byteAt args (2 + i)) = slots[i]?) →
      ∃ bank : Bank, exec (.putSlots target tag args) s = .next (State.replied tag 0x13 .ok [] (written bank)) ∧
        bank = { old with calendar := { old.calendar with slots := bank.calendar.slots } } ∧
        bank.calendar.slots.length = 128 ∧
        ∀ i : Nat, bank.calendar.slots[i]?
          = if first ≤ i ∧ i < first + slots.length then slots[i - first]? else old.calendar.slots[i]?) ∧
    (∀ lend : Bool, 1 ≤ (byteAt args 0).toNat → (byteAt args 0).toNat ≤ 128 →
      byteAt args 1 = (if lend then 1 else 0) →
      exec (.putCalHeader target tag args) s = .next (State.replied tag 0x14 .ok []
        (written { old with calendar := { old.calendar with length := (byteAt args 0).toNat, lend := lend } })))

/-- With no commit outstanding, COMMIT of a PENDING bank whose valid entries share no in-label and keep their lone hold
within their hold reserves its place and makes the commit state OUTSTANDING. Else it is refused with VALIDATION_FAILED,
naming the lowest index that fails, DUP_LABEL before LONE_HOLD, and changes nothing. ABANDON copies ACTIVE into PENDING
(R134, R135, R137, R156, R165). -/
def Obligations.CommitValidatesAndReserves : Prop :=
  ∀ (s : State) (target tag : Byte) (args : List Byte), s.agentReady target → args.length = 49 →
    s.tables.commit = .none →
    let pend := s.tables.pendingBank
    let dup (n : Index) : Prop := ∃ k : Index, k < n ∧ (pend.entry k).valid = true ∧
      (pend.entry k).inLabel = (pend.entry n).inLabel
    let long (n : Index) : Prop := (pend.entry n).hold.toNat < (pend.entry n).loneHold.toNat
    (pend.sound →
      exec (.commit target tag args) s = .next (State.withReserved tag 0x18
        { s with tables := { s.tables with commit := .outstanding tag } })) ∧
    (∀ n : Index, (pend.entry n).valid = true →
      (∀ k : Index, k < n → (pend.entry k).valid = true → ¬ dup k ∧ ¬ long k) →
      (dup n → exec (.commit target tag args) s
        = .next (s.replied tag 0x18 .validationFailed [1, BitVec.ofNat 8 n.val])) ∧
      (¬ dup n → long n → exec (.commit target tag args) s
        = .next (s.replied tag 0x18 .validationFailed [2, BitVec.ofNat 8 n.val]))) ∧
    exec (.abandon target tag args) s = .next (State.replied tag 0x19 .ok []
      { s with tables := { s.tables with pendingBank := s.tables.active } })

/-- GET_COUNTERS returns state, NES, Time Base and the items of a group of one context, all as they stand: group 0 the eight
arrival counters, group 1 the seven others with the skew record and its leading path, group 2 each path's presence with the
stamp it keeps, the held and queued counts and the serving class (section 12.4). With the
clear option that group's counters, with group 1 the skew record too, become 0 after they are taken; group 2 clears
nothing; no other context and nothing else changes (R63, R166, R175). -/
def Obligations.GetCountersReadsAndClears : Prop :=
  ∀ (s : State) (target tag : Byte) (args : List Byte) (i : ContextId), s.agentReady target → args.length = 49 →
    (match i with | .flow n => (byteAt args 0).toNat = n.val | .m => byteAt args 0 = 128) →
    (byteAt args 1).toNat ≤ 2 →
    let c := s.ctx i
    let four (l : List Count) : List Byte := l.flatMap (fun k => beBytes 4 k.toNat)
    let presence (r : Presence) : List Byte :=
      [if r.present then (1 : Byte) else 0] ++ (match r.last with
        | some stamp => (1 : Byte) :: beBytes 6 stamp.toNat
        | none => List.replicate 7 0)
    let result := [byteAt args 0, byteAt args 1, c.state.byte] ++ beBytes 2 c.nes.toNat ++ beBytes 6 s.timeBase.toNat
      ++ (if byteAt args 1 = 0 then
            four [c.counters.acceptedA, c.counters.acceptedB, c.counters.dupA, c.counters.dupB, c.counters.late,
                  c.counters.outOfWindow, c.counters.quotaDrop, c.counters.noBuffer]
          else if byteAt args 1 = 1 then
            four [c.counters.lost, c.counters.mismatch, c.counters.skewExceeded, c.counters.emitted, c.counters.flushed,
                  c.counters.resync, c.counters.correctionSaturated, c.skew.last, c.skew.max]
              ++ [match c.skew.leading with | none => (0 : Byte) | some .a => 1 | some .b => 2]
          else
            presence c.presA ++ presence c.presB ++ beBytes 2 c.held.length ++ beBytes 2 c.queue.length
              ++ [BitVec.ofNat 8 c.servingClass.val])
    let cleared : Ctx :=
      if byteAt args 1 = 0 then
        { c with counters := { c.counters with
            acceptedA := 0, acceptedB := 0, dupA := 0, dupB := 0, late := 0, outOfWindow := 0, quotaDrop := 0,
            noBuffer := 0 } }
      else if byteAt args 1 = 1 then
        { c with
          counters := { c.counters with
            lost := 0, mismatch := 0, skewExceeded := 0, emitted := 0, flushed := 0, resync := 0,
            correctionSaturated := 0 }
          skew := { last := 0, max := 0, leading := none } }
      else c
    exec (.getCounters target tag args) s = .next (State.replied tag 0x20 .ok result
      (if byteAt args 2 = 0 then s
       else match i with
         | .flow n => { s with flows := s.flows.set n.val cleared }
         | .m => { s with m := cleared }))

/-- GET_DEVICE_COUNTERS returns the group received, the Time Base and the group's counters in their order, none for a group
above 2; with the clear option that group's counters become 0 and no others; nothing else changes and it is not refused
(R167, R177). -/
def Obligations.GetDeviceCountersReadsAndClears : Prop :=
  ∀ (s : State) (target tag : Byte) (args : List Byte), s.agentReady target → args.length = 49 →
    let g := byteAt args 0
    let four (l : List Count) : List Byte := l.flatMap (fun c => beBytes 4 c.toNat)
    let path (k : PathCounters) : List Byte := four
      [k.cellsReceived, k.headerErrors, k.formatErrors, k.payloadErrors, k.cellsCut, k.upEntries, k.unmatched,
        k.ignoredPath]
    let items : List Byte :=
      if g = 0 then path s.device.a else if g = 1 then path s.device.b
      else if g = 2 then four [s.device.strayOverflow, s.device.idleSent, s.device.notForMe, s.device.overrun] else []
    let cleared : DeviceCounters :=
      if g = 0 then { s.device with a := PathCounters.zero }
      else if g = 1 then { s.device with b := PathCounters.zero }
      else if g = 2 then { s.device with strayOverflow := 0, idleSent := 0, notForMe := 0, overrun := 0 }
      else s.device
    exec (.getDeviceCounters target tag args) s
      = .next (State.replied tag 0x21 .ok ([g] ++ beBytes 6 s.timeBase.toNat ++ items)
          (if byteAt args 1 = 0 then s else { s with device := cleared }))

/-- GET_ALARMS reports the latched kinds, the holding conditions and both masks and changes nothing. CLEAR_ALARMS clears
each named latched kind whose condition does not hold, a named event kind therefore always, reports the kinds still latched,
and changes nothing else, the notification-pending flag included; positions that name no kind are not read (R168, R182). -/
def Obligations.AlarmsAreReadAndCleared : Prop :=
  ∀ (s : State) (target tag : Byte) (args : List Byte), s.agentReady target → args.length = 49 →
    exec (.getAlarms target tag args) s = .next (s.replied tag 0x24 .ok
      (beBytes 2 s.alarms.latched.toNat ++ beBytes 2 s.alarms.holding.toNat
        ++ beBytes 2 s.tables.settings.alarmMask.toNat ++ beBytes 2 s.tables.settings.notifyMask.toNat)) ∧
    ∃ latched : AlarmSet,
      exec (.clearAlarms target tag args) s = .next (State.replied tag 0x25 .ok (beBytes 2 latched.toNat)
        { s with alarms := { s.alarms with latched := latched } }) ∧
      (∀ k : AlarmKind, hasKind latched k = true ↔
        hasKind s.alarms.latched k = true ∧
          ((wordAt args 0).getLsbD k.bit = false ∨ hasKind s.alarms.holding k = true)) ∧
      (s.alarmsLaw → ∀ k ∈ [AlarmKind.mismatch, .skew, .loss, .resync, .mgmtOverrun, .storeFailed, .storeEmpty],
        (wordAt args 0).getLsbD k.bit = true → hasKind latched k = false)

/-- GET_SETTINGS returns the ten bytes of the Settings record and changes nothing. PUT_SETTINGS with every field in range
writes the whole record and replies OK: with the path timeout unchanged nothing else changes; with a new one every PRESENT
record has its expiry set from its kept stamp, or, the new timeout passed, is ABSENT with its stamp kept, and an ABSENT
record stays so. Stated where context M has nothing to do under the new record (R11, R52, R169). -/
def Obligations.SettingsAreReadAndWritten : Prop :=
  ∀ (s : State) (target tag : Byte) (args : List Byte), s.agentReady target → args.length = 49 →
    exec (.getSettings target tag args) s = .next (s.replied tag 0x28 .ok
      (beBytes 2 s.tables.settings.pathTimeout.toNat ++ beBytes 2 s.tables.settings.managementHold.toNat
        ++ beBytes 2 s.tables.settings.skewLimit.toNat ++ beBytes 2 s.tables.settings.alarmMask.toNat
        ++ beBytes 2 s.tables.settings.notifyMask.toNat)) ∧
    (∀ u : Settings,
      u = { pathTimeout := wordAt args 0, managementHold := wordAt args 2, skewLimit := wordAt args 4,
            alarmMask := (wordAt args 6).truncate 12, notifyMask := (wordAt args 8).truncate 12 } →
      u.inRange → s.m.settled (Params.ofSettings u) s.timeBase →
      (u.pathTimeout = s.tables.settings.pathTimeout →
        exec (.putSettings target tag args) s
          = .next (State.replied tag 0x29 .ok [] { s with tables := { s.tables with settings := u } })) ∧
      (u.pathTimeout ≠ s.tables.settings.pathTimeout → ∃ t : State,
        exec (.putSettings target tag args) s = .next t ∧ t.tables = { s.tables with settings := u } ∧
        t.agent.replies = (s.replied tag 0x29 .ok []).agent.replies ∧ t.agent.commands = [] ∧
        (let retimed (r : Presence) : Presence :=
          match r.present, r.last with
          | true, some stamp =>
            if u.pathTimeout.toNat * 100000 ≤ (s.timeBase - stamp).toNat
            then { present := false, last := some stamp, expiry := none }
            else { r with expiry := some (stamp + BitVec.ofNat 48 (u.pathTimeout.toNat * 100000)) }
          | true, none => { r with expiry := none }
          | false, _ => r
         (∀ (n : Index) (p : Path), (t.flow n).pres p = retimed ((s.flow n).pres p)) ∧
          ∀ p : Path, t.m.pres p = retimed (s.m.pres p))))

/-- GET_STRAYS returns the number of records, STRAY_OVERFLOW and up to three records from the first position named, none
beyond the end, and changes nothing; CLEAR_STRAYS empties the list, leaves STRAY_OVERFLOW and replies OK; neither is
refused (R17, R18, R169). -/
def Obligations.StraysAreReadAndCleared : Prop :=
  ∀ (s : State) (target tag : Byte) (args : List Byte), s.agentReady target → args.length = 49 →
    exec (.getStrays target tag args) s = .next (s.replied tag 0x2C .ok
      ([BitVec.ofNat 8 s.strays.length] ++ beBytes 4 s.device.strayOverflow.toNat
        ++ ((s.strays.drop (byteAt args 0).toNat).take 3).flatMap (fun r =>
            beBytes 2 r.label.toNat ++ [match r.firstSeen with | .a => (1 : Byte) | .b => 2] ++ beBytes 4 r.count.toNat
              ++ beBytes 6 r.last.toNat))) ∧
    exec (.clearStrays target tag args) s = .next (State.replied tag 0x2D .ok [] { s with strays := [] })

/-- RESET_FLOW of an index above 127 or of an invalid entry is refused with BAD_ARGUMENT and changes nothing. Of a valid
ACTIVE entry it flushes the held set, its buffers free and FLUSHED counted for each; deadlines and seeding stamp are
absent, the history all NONE, run count, renumber counter and NES 0, the state UNSEEDED; queue, ring, class, presence, skew
and the other counters stand; the reply is OK; nothing else changes but alarms (R44, R73). -/
def Obligations.ResetFlowRestartsTheContext : Prop :=
  ∀ (s : State) (target tag : Byte) (args : List Byte), s.agentReady target → args.length = 49 →
    (127 < (byteAt args 0).toNat ∨ (∃ n : Index, (byteAt args 0).toNat = n.val ∧ (s.entry n).valid = false) →
      exec (.resetFlow target tag args) s = .next (s.replied tag 0x30 .badArgument [])) ∧
    ∀ n : Index, (byteAt args 0).toNat = n.val → (s.entry n).valid = true →
    ∃ t : State, exec (.resetFlow target tag args) s = .next t ∧
      t = State.replied tag 0x30 .ok []
        { s with
          flows := s.flows.set n.val { s.flow n with
            state := .unseeded
            nes := 0
            seedingStamp := none
            seedingDeadline := none
            gapDeadline := none
            held := []
            history := List.replicate 64 .none
            runCount := 0
            renumber := 0
            counters := { (s.flow n).counters with
              flushed := (s.flow n).counters.flushed + BitVec.ofNat 32 (s.flow n).held.length } }
          pool := { s.pool with free := s.pool.free + (s.flow n).held.length }
          alarms := t.alarms
          agent := { s.agent with notifyPending := t.agent.notifyPending } } ∧
      (∀ k : AlarmKind, hasKind s.alarms.latched k = true → hasKind t.alarms.latched k = true)

/-- SAVE on an IDLE store judges the slots, copies the ACTIVE bank and the Settings with the integrity check over them,
chooses the slot that does not hold the newest valid image, or slot 0, with the next generation, or 1, makes that slot
INVALID, is WRITING and reserves its place. LOAD, with no commit outstanding and an IDLE store, judges the slots, writes the
newest valid image's tables into PENDING and its Settings into the record and replies OK with slot and generation, or replies
STORE_EMPTY where no slot is VALID; it leaves ACTIVE, commit state and store state (R156, R170, R187, R190, R194; what the
judging finds is free, assumption 16). LOAD is stated for images that leave the path timeout and give context M nothing to
do. -/
def Obligations.SaveAndLoad : Prop :=
  ∀ (s : State) (target tag : Byte) (args : List Byte), s.agentReady target → args.length = 49 →
    s.store.state = .idle →
    let judged := s.store.consult
    (let slot := match judged.newest with | none => false | some (newest, _) => !newest
     let generation : Count := match judged.newest with | none => 1 | some (_, i) => i.generation + 1
     exec (.save target tag args) s = .next (State.withReserved tag 0x38
       { s with store := { judged with
           slot0 := if slot then judged.slot0 else none
           slot1 := if slot then none else judged.slot1
           state := .writing slot
             { generation := generation, bank := s.tables.active, settings := s.tables.settings
               check := Config.integrityCheck (imageBytes generation s.tables.active s.tables.settings) } } })) ∧
    (s.tables.commit = .none →
      (∀ i : Image, s.store.slot0 = some i ∨ s.store.slot1 = some i →
        i.settings.pathTimeout = s.tables.settings.pathTimeout ∧
          s.m.settled (Params.ofSettings i.settings) s.timeBase) →
      exec (.load target tag args) s = .next (match judged.newest with
        | none => State.replied tag 0x39 .storeEmpty [] { s with store := judged }
        | some (slot, i) => State.replied tag 0x39 .ok ([if slot then 1 else 0] ++ beBytes 4 i.generation.toNat)
            { s with store := judged
                     tables := { s.tables with pendingBank := i.bank, settings := i.settings } }))

/-- RESTART FULL on an IDLE store places its reply, OK, at the tail, marked as the one whose take applies the reset,
and sets the restart-waiting flag. RESTART TRAFFIC, any other kind byte, empties and restarts every context from the
ACTIVE bank, the pool, the position and rings, the device counters and the Stray Label List, lets POOL_EMPTY and the
flow conditions cease, then places its reply; banks, Settings, commit state, latches, the agent's queues and flags,
the reply sequence, the store, the receivers, the Time Base and both line stages stand, and the model's own bit
beside the position is clear (R171, R172, R186, R199, R200; assumption 8). -/
def Obligations.RestartsFullAndTraffic : Prop :=
  ∀ (s : State) (target tag kind : Byte) (rest : List Byte), s.agentReady target → rest.length = 48 →
    (s.store.state = .idle →
      exec (.restartFull target tag rest) s = .next { s with agent := { s.agent with
        restartWaiting := true
        replies := s.agent.replies ++ [.filled
          { source := s.agent.source, tag := tag, code := 0x3C, status := .ok, result := [],
            restartsFull := true }] } }) ∧
    (kind ≠ 0xF1 →
      exec (.restartTraffic target tag kind rest) s = .next (State.replied tag 0x3C .ok []
        { s with
          flows := (List.finRange 128).map (fun n =>
            Ctx.fresh (if (s.entry n).valid then .unseeded else .none) (s.entry n).cls)
          m := State.reset.m
          pool := State.reset.pool
          sched := State.reset.sched
          out := { s.out with buffer := none }
          device := State.reset.device
          strays := []
          alarms := { s.alarms with holding := s.alarms.holding &&& ~~~ (AlarmKind.poolEmpty.mask
            ||| AlarmKind.flowUnprotected.mask ||| AlarmKind.flowSilent.mask) } }))

/-- While a commit is outstanding, PUT_ENTRY, PUT_SLOTS, PUT_CAL_HEADER, ABANDON, LOAD and a second COMMIT are refused with
COMMIT_PENDING whatever their arguments and the store's state. While a write runs, SAVE, RESTART FULL and, with no commit
outstanding, LOAD are refused with STORE_BUSY; LOAD from an IDLE store in which it judges no slot VALID is refused with
STORE_EMPTY, latching nothing. None of them changes anything but the reply queue, and that last one the store's judgement
(R132, R136, R170, R172, R187, R190, R194; assumption 16). -/
def Obligations.CommitAndStoreRefusals : Prop :=
  ∀ (s : State) (i : Instr) (code target tag : Byte) (args : List Byte),
    s.agentReady target → handsOver i = some (code, target, tag, args) → args.length = 49 →
    (∀ waiting : Byte, code ∈ ([0x11, 0x13, 0x14, 0x18, 0x19, 0x39] : List Byte) →
      s.tables.commit = .outstanding waiting → exec i s = .next (s.replied tag code .commitPending [])) ∧
    (∀ (slot : Bool) (image : Image), s.store.state = .writing slot image →
      code = 0x38 ∨ (code = 0x39 ∧ s.tables.commit = .none) ∨ (code = 0x3C ∧ byteAt args 0 = 0xF1) →
      exec i s = .next (s.replied tag code .storeBusy [])) ∧
    (code = 0x39 → s.tables.commit = .none → s.store.state = .idle → s.store.consult.newest = none →
      exec i s = .next (State.replied tag code .storeEmpty [] { s with store := s.store.consult }))

/-- An argument that names no value of its field refuses the whole command with BAD_ARGUMENT and changes nothing: a
bank above 1 or an index above 127, a slot count of 0 or above 32 or beyond position 128, and with no commit
outstanding an entry whose valid, sequence mode or restamp byte is above 1, a label above 4,094, a policy byte above
2, a window code above 4, a hold of 0, a quota of 0 or above 2,048 or a class above 7, a slot byte that is neither
0xFF nor from 0 to 7, a header whose length is 0 or above 128 or whose LEND byte is above 1; a counter index above
128 or group above 2, a Settings field out of range, RESET_FLOW of an invalid entry (R10, R11, R44, R132, R164,
R166, R203). -/
def Obligations.BadArgumentRefusals : Prop :=
  ∀ (s : State) (target tag : Byte) (args : List Byte), s.agentReady target → args.length = 49 →
    let refused (code : Byte) : State := s.replied tag code .badArgument []
    (1 < (byteAt args 0).toNat ∨ 127 < (byteAt args 1).toNat →
      exec (.getEntry target tag args) s = .next (refused 0x10)) ∧
    (1 < (byteAt args 0).toNat ∨ (byteAt args 2).toNat = 0 ∨ 32 < (byteAt args 2).toNat ∨
        128 < (byteAt args 1).toNat + (byteAt args 2).toNat →
      exec (.getSlots target tag args) s = .next (refused 0x12)) ∧
    (s.tables.commit = .none → 127 < (byteAt args 0).toNat ∨ 1 < (byteAt args 1).toNat ∨
        4094 < (wordAt args 2).toNat ∨ 4094 < (wordAt args 4).toNat ∨ 2 < (byteAt args 6).toNat ∨
        4 < (byteAt args 7).toNat ∨ wordAt args 8 = 0 ∨ wordAt args 12 = 0 ∨ 2048 < (wordAt args 12).toNat ∨
        7 < (byteAt args 14).toNat ∨ 1 < (byteAt args 15).toNat ∨ 1 < (byteAt args 16).toNat →
      exec (.putEntry target tag args) s = .next (refused 0x11)) ∧
    (s.tables.commit = .none → (byteAt args 1).toNat = 0 ∨ 32 < (byteAt args 1).toNat ∨
        128 < (byteAt args 0).toNat + (byteAt args 1).toNat ∨
        (∃ i : Nat, i < (byteAt args 1).toNat ∧ byteAt args (2 + i) ≠ 0xFF ∧ 7 < (byteAt args (2 + i)).toNat) →
      exec (.putSlots target tag args) s = .next (refused 0x13)) ∧
    (s.tables.commit = .none → (byteAt args 0).toNat = 0 ∨ 128 < (byteAt args 0).toNat ∨ 1 < (byteAt args 1).toNat →
      exec (.putCalHeader target tag args) s = .next (refused 0x14)) ∧
    (128 < (byteAt args 0).toNat ∨ 2 < (byteAt args 1).toNat →
      exec (.getCounters target tag args) s = .next (refused 0x20)) ∧
    (wordAt args 0 = 0 ∨ 1000 < (wordAt args 0).toNat ∨ wordAt args 2 = 0 ∨ wordAt args 4 = 0 →
      exec (.putSettings target tag args) s = .next (refused 0x29)) ∧
    (127 < (byteAt args 0).toNat ∨ (∃ n : Index, (byteAt args 0).toNat = n.val ∧ (s.entry n).valid = false) →
      exec (.resetFlow target tag args) s = .next (refused 0x30))

/-- The sixteen bytes of an entry decode to the entry, and the ten bytes of a Settings record to the record, for every value
in range: no field of a table encoding is dropped or confused with another (R1, R11, R203). -/
def Obligations.TableEncodingsRoundTrip : Prop :=
  (∀ (e : Entry) (before after : List Byte), e.inRange →
      decodeEntry (before ++ encodeEntry e ++ after) before.length = some e) ∧
    ∀ (u : Settings) (after : List Byte), u.inRange → decodeSettings (encodeSettings u ++ after) = some u

/-! ## Laws that every step keeps -/

/-- Every law below holds of the part right after reset, with the tables and contexts that assumption 4 gives it before the
load instant. -/
def Obligations.ResetMeetsEveryLaw : Prop :=
  State.reset.queuesBounded ∧ State.reset.placesLaw ∧ State.reset.quietUntilLoaded ∧ State.reset.receiversLaw ∧
    State.reset.straysLaw ∧ State.reset.tablesInRange ∧ State.reset.banksSound ∧ State.reset.positionInCalendar ∧
    State.reset.contextsLaw ∧ State.reset.buffersConserved ∧ State.reset.ringsLaw ∧ State.reset.alarmsLaw

/-- Until the load instant the 128 flow contexts and context M, the Buffer Pool, the Scheduler, and the tables with the
Settings and the commit state stand as the reset left them; Out holds no buffer, the Stray Label List and the agent's command
and reply queues are empty, no restart waits, the store is IDLE and no cell is in reception; while the part is held in reset
the Time Base stays at 0 and both receivers in DOWN (R97, R100, R123, R150, R195, R196). It says nothing of the line stages,
the reply sequence number, the alarms, the device counters, the agent's flags OVERRUN, INTEGRITY and notification-pending and
its strap address, the slots, nor, in STARTING, of the Time Base and the receivers' other items. That banks and flow contexts
stand so until the load instant is the model's choice (assumption 4). -/
def Obligations.QuietUntilLoadedIsKept : Prop :=
  ∀ s t : State, s.quietUntilLoaded → step s = .next t → t.quietUntilLoaded

/-- The command queue never holds more than 4 commands and the reply queue never more than 8 places (R157). Exactly the
outstanding COMMIT and the running SAVE hold a reserved place, with the COMMIT's tag, and the restart-waiting flag is set
exactly while the RESTART FULL reply is queued (R133, R156, R172). -/
def Obligations.AgentQueuesStayLawful : Prop :=
  (∀ s t : State, s.queuesBounded → step s = .next t → t.queuesBounded) ∧
    ∀ s t : State, s.quietUntilLoaded → s.placesLaw → step s = .next t → t.placesLaw

/-- Each receiver's boundary, counts, reception and the bytes its next candidate starts with agree with its state,
and a line with signal has its receiver out of DOWN unless the part is held in reset (R112 to R117). -/
def Obligations.ReceiversStayLawful : Prop :=
  ∀ s t : State, s.receiversLaw → step s = .next t → t.receiversLaw

/-- The Stray Label List holds at most 8 records, no two of one label (R16). -/
def Obligations.StrayListStaysLawful : Prop :=
  ∀ s t : State, s.straysLaw → step s = .next t → t.straysLaw

/-- Every field of every entry, Calendar, Settings record and image holds a value of its range at all times
(R1, R7, R11, R187), and the calendar position lies within the ACTIVE Calendar (R81, R82). -/
def Obligations.TablesAndPositionStayInRange : Prop :=
  (∀ s t : State, s.tablesInRange → step s = .next t → t.tablesInRange) ∧
    ∀ s t : State, s.quietUntilLoaded → s.tablesInRange → s.positionInCalendar → step s = .next t →
      t.positionInCalendar

/-- No two valid entries of the ACTIVE bank share an in-label and no valid one's lone hold exceeds its hold; so of
every image and of a PENDING bank that waits for its boundary (R8, R134, R136, R187). -/
def Obligations.ActiveBankStaysSound : Prop :=
  ∀ s t : State, s.banksSound → step s = .next t → t.banksSound

/-- Every context keeps its law: held numbers distinct, in order and inside the window, none at NES in RUNNING, deadlines
exactly where and what the rules say, the state in agreement with the ACTIVE entry and the queue
(R2, R22, R24, R29, R31, R34, R42, R58). -/
def Obligations.ContextsStayLawful : Prop :=
  ∀ s t : State, s.quietUntilLoaded → s.tablesInRange → s.contextsLaw → step s = .next t → t.contextsLaw

/-- Each of the 2,048 buffers stays in exactly one place: the free count and the buffers in held sets, output queues and the
Out transmitter always add up to 2,048 (R68, R73). -/
def Obligations.BuffersAreConserved : Prop :=
  ∀ s t : State, s.quietUntilLoaded → s.contextsLaw → s.tablesInRange → s.buffersConserved → step s = .next t →
    t.buffersConserved

/-- A flow is in a class ring exactly when its output queue is non-empty, and then in that of its serving class
alone (R83). -/
def Obligations.RingsFollowTheQueues : Prop :=
  ∀ s t : State, s.quietUntilLoaded → s.flows.length = 128 → s.ringsLaw → step s = .next t → t.ringsLaw

/-- The Alarm Unit's copy of each condition agrees with the condition as its owner knows it, and a kind whose condition holds
is latched (R64, R65, R78, R125, R179, R180). -/
def Obligations.AlarmCopiesFollowTheConditions : Prop :=
  ∀ s t : State, s.alarmsLaw → step s = .next t → t.alarmsLaw
end

