-- ==== Sys2Proof/Laws/Context.lean ====
section
/-! SUPPORT. What one act of a context can be, and what settling and the commit release do to it: the held set gives up
a first part, the queue gains exactly that part, and nothing that other rules own is touched. -/

namespace Sys2Proof.Machine

open Sys2Proof

/-- One act, once for all: nothing left and at most a deadline written, a gap given up, seeding ended, or the record at
NES released (R29, R32, R56 to R59). -/
theorem Ctx.micro_cases (p : Params) (now : Time) (c : Ctx) :
    (∃ g d, c.micro p now = .stay { c with gapDeadline := g, seedingDeadline := d }) ∨
    (∃ h rest, c.state = .running ∧ c.held = h :: rest ∧ h.buffer.cell.seq ≠ c.nes ∧
      deadlineReached (c.applicableHold p) now h.buffer.stamp = true ∧ c.micro p now = .move (c.giveUpGap h) true) ∨
    (∃ stamp, c.state = .seeding ∧ c.seedingStamp = some stamp ∧
      deadlineReached (c.applicableHold p) now stamp = true ∧ c.micro p now = .move c.endSeeding false) ∨
    (∃ h rest, c.state = .running ∧ c.held = h :: rest ∧ h.buffer.cell.seq = c.nes ∧
      c.micro p now = .release (c.releaseRec h rest) h.buffer) := by
  unfold Ctx.micro
  split
  · split
    · exact .inl ⟨none, c.seedingDeadline, rfl⟩
    · next h rest heq =>
      split
      · next hs => exact .inr (.inr (.inr ⟨h, rest, by assumption, heq, hs, rfl⟩))
      · next hs =>
        dsimp only
        split
        · exact .inl ⟨c.gapDeadline, c.seedingDeadline, rfl⟩
        · split
          · next hd => exact .inr (.inl ⟨h, rest, by assumption, heq, hs, hd, rfl⟩)
          · exact .inl ⟨_, c.seedingDeadline, rfl⟩
  · split
    · exact .inl ⟨c.gapDeadline, c.seedingDeadline, rfl⟩
    · next stamp heq =>
      dsimp only
      split
      · exact .inl ⟨c.gapDeadline, c.seedingDeadline, rfl⟩
      · split
        · next hd => exact .inr (.inr (.inl ⟨stamp, by assumption, heq, hd, rfl⟩))
        · exact .inl ⟨c.gapDeadline, _, rfl⟩
  · exact .inl ⟨c.gapDeadline, c.seedingDeadline, rfl⟩

/-- What a released buffer keeps of the record it was: payload, arrival path and stamp, under a label (R39). -/
def Buffer.trace (b : Buffer) : Label × List Byte × Path × Time := (b.cell.label, b.cell.payload, b.path, b.stamp)

/-- What `d` may be after `c` has released `run` under entry `e`: the held set lost exactly `run` from its front, the queue
gained it in order, and presence, class, skew and run count stand (R39, R40, R41). -/
structure Ctx.Released (e : Entry) (run : List HeldRec) (c d : Ctx) : Prop where
  held : c.held = run ++ d.held
  queue : d.queue.map Buffer.trace = c.queue.map Buffer.trace
    ++ run.map (fun h => (e.outLabel, h.buffer.cell.payload, h.buffer.path, h.buffer.stamp))
  renumber : d.renumber = if e.renumber then c.renumber + BitVec.ofNat 16 run.length else c.renumber
  emitted : d.counters.emitted = c.counters.emitted + BitVec.ofNat 32 run.length
  presA : d.presA = c.presA
  presB : d.presB = c.presB
  servingClass : d.servingClass = c.servingClass
  skew : d.skew = c.skew
  runCount : d.runCount = c.runCount

/-- A change that touches neither held set, queue, renumber counter, EMITTED, presence, class, skew nor run count released
nothing. -/
theorem Ctx.Released.of_eq {e : Entry} {c d : Ctx} (held : d.held = c.held) (queue : d.queue = c.queue)
    (renumber : d.renumber = c.renumber) (emitted : d.counters.emitted = c.counters.emitted)
    (presA : d.presA = c.presA) (presB : d.presB = c.presB) (cls : d.servingClass = c.servingClass)
    (skew : d.skew = c.skew) (run : d.runCount = c.runCount) : Ctx.Released e [] c d :=
  ⟨by simp [held], by simp [queue], by simp [renumber], by simp [emitted], presA, presB, cls, skew, run⟩

/-- Two releases in turn are one. -/
theorem Ctx.Released.trans {e : Entry} {r1 r2 : List HeldRec} {a b c : Ctx} (h1 : Ctx.Released e r1 a b)
    (h2 : Ctx.Released e r2 b c) : Ctx.Released e (r1 ++ r2) a c where
  held := by rw [h1.held, h2.held, List.append_assoc]
  queue := by rw [h2.queue, h1.queue, List.map_append, List.append_assoc]
  renumber := by
    rw [h2.renumber, h1.renumber]
    split <;> simp [BitVec.ofNat_add, BitVec.add_assoc]
  emitted := by rw [h2.emitted, h1.emitted]; simp [BitVec.ofNat_add, BitVec.add_assoc]
  presA := h2.presA.trans h1.presA
  presB := h2.presB.trans h1.presB
  servingClass := h2.servingClass.trans h1.servingClass
  skew := h2.skew.trans h1.skew
  runCount := h2.runCount.trans h1.runCount

/-- Giving up a gap releases nothing. -/
theorem Ctx.released_giveUpGap (e : Entry) (h : HeldRec) (c : Ctx) : Ctx.Released e [] c (c.giveUpGap h) :=
  .of_eq rfl rfl rfl rfl rfl rfl rfl rfl rfl

/-- The end of seeding releases nothing by itself. -/
theorem Ctx.released_endSeeding (e : Entry) (c : Ctx) : Ctx.Released e [] c c.endSeeding := by
  unfold Ctx.endSeeding
  split <;> exact .of_eq rfl rfl rfl rfl rfl rfl rfl rfl rfl

/-- Releasing the lowest record into the queue (R39, R41). -/
theorem Ctx.released_releaseRec (e : Entry) {h : HeldRec} {rest : List HeldRec} {c : Ctx} (hc : c.held = h :: rest) :
    Ctx.Released e [h] c ((c.releaseRec h rest).enqueue e h.buffer) where
  held := by simp [hc, Ctx.enqueue, Ctx.releaseRec]
  queue := by simp [Ctx.enqueue, Ctx.releaseRec, relabelled, Buffer.trace]
  renumber := rfl
  emitted := by cases hp : h.buffer.path <;> simp [Ctx.enqueue, Ctx.releaseRec, FlowCounters.countAccepted, hp]
  presA := rfl
  presB := rfl
  servingClass := rfl
  skew := rfl
  runCount := rfl

/-- Joining the queue changes queue and renumber counter alone (R39, R41). -/
@[simp] theorem Ctx.enqueueAll_keeps (e : Entry) (bs : List Buffer) (c : Ctx) :
    (c.enqueueAll e bs).state = c.state ∧ (c.enqueueAll e bs).nes = c.nes ∧
    (c.enqueueAll e bs).seedingStamp = c.seedingStamp ∧ (c.enqueueAll e bs).seedingDeadline = c.seedingDeadline ∧
    (c.enqueueAll e bs).gapDeadline = c.gapDeadline ∧ (c.enqueueAll e bs).held = c.held ∧
    (c.enqueueAll e bs).servingClass = c.servingClass ∧ (c.enqueueAll e bs).presA = c.presA ∧
    (c.enqueueAll e bs).presB = c.presB ∧ (c.enqueueAll e bs).runCount = c.runCount ∧
    (c.enqueueAll e bs).skew = c.skew ∧ (c.enqueueAll e bs).history = c.history ∧
    (c.enqueueAll e bs).counters = c.counters := by
  induction bs generalizing c with
  | nil => exact ⟨rfl, rfl, rfl, rfl, rfl, rfl, rfl, rfl, rfl, rfl, rfl, rfl, rfl⟩
  | cons b bs ih => exact ih (c.enqueue e b)

@[simp] theorem Ctx.enqueueAll_nil (e : Entry) (c : Ctx) : c.enqueueAll e [] = c := rfl

@[simp] theorem Ctx.enqueueAll_cons (e : Entry) (b : Buffer) (bs : List Buffer) (c : Ctx) :
    c.enqueueAll e (b :: bs) = (c.enqueue e b).enqueueAll e bs := rfl

/-- What the queue gains, in order, under the out-label, and how far the renumber counter goes (R39, R41). -/
theorem Ctx.enqueueAll_queue (e : Entry) (bs : List Buffer) (c : Ctx) :
    (c.enqueueAll e bs).queue.map Buffer.trace
        = c.queue.map Buffer.trace ++ bs.map (fun b => (e.outLabel, b.cell.payload, b.path, b.stamp)) ∧
    (c.enqueueAll e bs).renumber
        = if e.renumber then c.renumber + BitVec.ofNat 16 bs.length else c.renumber := by
  induction bs generalizing c with
  | nil => simp
  | cons b bs ih =>
    obtain ⟨h1, h2⟩ := ih (c.enqueue e b)
    refine ⟨?_, ?_⟩
    · rw [Ctx.enqueueAll_cons, h1]; simp [Ctx.enqueue, relabelled, Buffer.trace]
    · rw [Ctx.enqueueAll_cons, h2]
      cases he : e.renumber
      · simp [Ctx.enqueue, he]
      · simp [Ctx.enqueue, he, BitVec.ofNat_add, BitVec.add_assoc, BitVec.add_comm 1#16]

/-- What settling a context can do of its record: it releases some first part of the held set, in order, and touches
neither queue, renumber counter, presence, class, skew nor run count (R40, R58, R59, R174). -/
structure Ctx.Emptied (run : List HeldRec) (c : Ctx) (r : Settled) : Prop where
  held : c.held = run ++ r.ctx.held
  released : r.released = run.map HeldRec.buffer
  emitted : r.ctx.counters.emitted = c.counters.emitted + BitVec.ofNat 32 run.length
  queue : r.ctx.queue = c.queue
  renumber : r.ctx.renumber = c.renumber
  presA : r.ctx.presA = c.presA
  presB : r.ctx.presB = c.presB
  servingClass : r.ctx.servingClass = c.servingClass
  skew : r.ctx.skew = c.skew
  runCount : r.ctx.runCount = c.runCount

/-- All that settling can do, whatever the fuel. -/
theorem Ctx.settleRun_emptied (p : Params) (now : Time) : ∀ (fuel : Nat) (c : Ctx),
    ∃ run, Ctx.Emptied run c (c.settleRun p now fuel)
  | 0, _ => ⟨[], rfl, rfl, by simp [Ctx.settleRun], rfl, rfl, rfl, rfl, rfl, rfl, rfl⟩
  | fuel + 1, c => by
    unfold Ctx.settleRun
    rcases c.micro_cases p now with
      ⟨g, d, hm⟩ | ⟨h, rest, -, hh, -, -, hm⟩ | ⟨stamp, -, -, -, hm⟩ | ⟨h, rest, -, hh, -, hm⟩ <;> rw [hm] <;> dsimp only
    · exact ⟨[], rfl, rfl, by simp, rfl, rfl, rfl, rfl, rfl, rfl, rfl⟩
    · obtain ⟨run, hr⟩ := Ctx.settleRun_emptied p now fuel (c.giveUpGap h)
      exact ⟨run, hr.held, hr.released, hr.emitted, hr.queue, hr.renumber, hr.presA, hr.presB, hr.servingClass, hr.skew,
        hr.runCount⟩
    · obtain ⟨run, hr⟩ := Ctx.settleRun_emptied p now fuel c.endSeeding
      have h0 := Ctx.released_endSeeding Entry.default c
      exact ⟨run, h0.held.trans (by simpa using hr.held), hr.released, by rw [hr.emitted, h0.emitted]; simp,
        hr.queue.trans (by unfold Ctx.endSeeding; split <;> rfl), hr.renumber.trans (by unfold Ctx.endSeeding; split <;> rfl),
        hr.presA.trans h0.presA, hr.presB.trans h0.presB, hr.servingClass.trans h0.servingClass, hr.skew.trans h0.skew,
        hr.runCount.trans h0.runCount⟩
    · obtain ⟨run, hr⟩ := Ctx.settleRun_emptied p now fuel (c.releaseRec h rest)
      refine ⟨h :: run, by rw [hh]; exact congrArg (h :: ·) hr.held, congrArg (h.buffer :: ·) hr.released, ?_, hr.queue,
        hr.renumber, hr.presA, hr.presB, hr.servingClass, hr.skew, hr.runCount⟩
      rw [hr.emitted]
      cases hp : h.buffer.path <;>
        simp [Ctx.releaseRec, FlowCounters.countAccepted, hp, BitVec.ofNat_add, BitVec.add_assoc, BitVec.add_comm 1#32]

/-- All that the settling of a flow can do: it releases some first part of the held set into the queue (R40, R58, R59). -/
theorem Ctx.settle_released (e : Entry) (now : Time) (c : Ctx) :
    ∃ run, Ctx.Released e run c (Ctx.settle e now c).1 := by
  obtain ⟨run, hr⟩ := Ctx.settleRun_emptied (Params.ofEntry e) now c.settleFuel c
  obtain ⟨hq, hn⟩ := Ctx.enqueueAll_queue e (c.settleRun (Params.ofEntry e) now c.settleFuel).released
    (c.settleRun (Params.ofEntry e) now c.settleFuel).ctx
  refine ⟨run, ?_⟩
  unfold Ctx.settle
  constructor <;> simp only [Ctx.enqueueAll_keeps]
  · exact hr.held
  · rw [hq, hr.queue, hr.released, List.map_map]; rfl
  · rw [hn, hr.renumber, hr.released, List.length_map]
  · exact hr.emitted
  · exact hr.presA
  · exact hr.presB
  · exact hr.servingClass
  · exact hr.skew
  · exact hr.runCount

/-- All that the releases of a commit release do (R141). -/
theorem Ctx.releaseAll_released (e : Entry) : ∀ (held : List HeldRec) (c : Ctx), c.held = held →
    Ctx.Released e held c (Ctx.releaseAll e held c) ∧ (Ctx.releaseAll e held c).held = []
  | [], _, hc => ⟨.of_eq rfl rfl rfl rfl rfl rfl rfl rfl rfl, hc⟩
  | h :: rest, c, hc => by
    unfold Ctx.releaseAll
    have h1 : Ctx.Released e [h] c (((c.giveUpGap h).releaseRec h rest).enqueue e h.buffer) :=
      (c.released_giveUpGap e h).trans (Ctx.released_releaseRec e (c := c.giveUpGap h) hc)
    obtain ⟨h2, h3⟩ := Ctx.releaseAll_released e rest (((c.giveUpGap h).releaseRec h rest).enqueue e h.buffer) rfl
    exact ⟨h1.trans h2, h3⟩

/-- A context whose next act is to stay is settled at once. -/
theorem Ctx.settleRun_stay {p : Params} {now : Time} {c c' : Ctx} (h : c.micro p now = .stay c') (fuel : Nat) :
    c.settleRun p now (fuel + 1) = { ctx := c', released := [], lost := false } := by
  unfold Ctx.settleRun; rw [h]

theorem Ctx.settle_stay {e : Entry} {now : Time} {c c' : Ctx} (h : c.micro (Params.ofEntry e) now = .stay c') :
    Ctx.settle e now c = (c', false) := by
  unfold Ctx.settle Ctx.settleFuel; rw [Ctx.settleRun_stay h]; rfl

/-- A context in another state than SEEDING and RUNNING has nothing to do. -/
theorem Ctx.micro_idle (p : Params) (now : Time) {c : Ctx} (hs : c.state ≠ .seeding) (hr : c.state ≠ .running) :
    c.micro p now = .stay c := by
  unfold Ctx.micro
  split
  · exact absurd ‹_› hr
  · exact absurd ‹_› hs
  · rfl

end Sys2Proof.Machine
end

