-- ==== Sys2Proof/Laws/State.lean ====
section
/-! SUPPORT. The frame of every shared operation: one lemma each that names the fields the operation leaves alone, and
the field it writes where that is a plain update. No later proof unfolds a record update. -/

namespace Sys2Proof.Machine

open Sys2Proof

/-- Passing ticks change the Time Base alone. -/
@[simp] theorem State.advance_keeps (d : Time) (s : State) :
    (s.advance d).pending = s.pending ∧ (s.advance d).phase = s.phase ∧ (s.advance d).addrPins = s.addrPins ∧
    (s.advance d).rxA = s.rxA ∧ (s.advance d).rxB = s.rxB ∧ (s.advance d).device = s.device ∧
    (s.advance d).strays = s.strays ∧ (s.advance d).tables = s.tables ∧ (s.advance d).flows = s.flows ∧
    (s.advance d).m = s.m ∧ (s.advance d).pool = s.pool ∧ (s.advance d).sched = s.sched ∧
    (s.advance d).out = s.out ∧ (s.advance d).ret = s.ret ∧ (s.advance d).agent = s.agent ∧
    (s.advance d).store = s.store ∧ (s.advance d).alarms = s.alarms := by
  refine ⟨?_, ?_, ?_, ?_, ?_, ?_, ?_, ?_, ?_, ?_, ?_, ?_, ?_, ?_, ?_, ?_, ?_⟩ <;> (unfold State.advance; split <;> rfl)

/-- Writing a receiver changes the receivers alone. -/
@[simp] theorem State.setRx_keeps (p : Path) (r : Receiver) (s : State) :
    (s.setRx p r).pending = s.pending ∧ (s.setRx p r).phase = s.phase ∧ (s.setRx p r).timeBase = s.timeBase ∧
    (s.setRx p r).addrPins = s.addrPins ∧ (s.setRx p r).device = s.device ∧ (s.setRx p r).strays = s.strays ∧
    (s.setRx p r).tables = s.tables ∧ (s.setRx p r).flows = s.flows ∧ (s.setRx p r).m = s.m ∧
    (s.setRx p r).pool = s.pool ∧ (s.setRx p r).sched = s.sched ∧ (s.setRx p r).out = s.out ∧
    (s.setRx p r).ret = s.ret ∧ (s.setRx p r).agent = s.agent ∧ (s.setRx p r).store = s.store ∧
    (s.setRx p r).alarms = s.alarms := by
  refine ⟨?_, ?_, ?_, ?_, ?_, ?_, ?_, ?_, ?_, ?_, ?_, ?_, ?_, ?_, ?_, ?_⟩ <;> (cases p <;> rfl)

/-- Counting on a path changes the device counters alone. -/
@[simp] theorem State.countPath_keeps (p : Path) (f : PathCounters → PathCounters) (s : State) :
    (s.countPath p f).pending = s.pending ∧ (s.countPath p f).phase = s.phase ∧ (s.countPath p f).timeBase = s.timeBase ∧
    (s.countPath p f).addrPins = s.addrPins ∧ (s.countPath p f).rxA = s.rxA ∧ (s.countPath p f).rxB = s.rxB ∧
    (s.countPath p f).strays = s.strays ∧ (s.countPath p f).tables = s.tables ∧ (s.countPath p f).flows = s.flows ∧
    (s.countPath p f).m = s.m ∧ (s.countPath p f).pool = s.pool ∧ (s.countPath p f).sched = s.sched ∧
    (s.countPath p f).out = s.out ∧ (s.countPath p f).ret = s.ret ∧ (s.countPath p f).agent = s.agent ∧
    (s.countPath p f).store = s.store ∧ (s.countPath p f).alarms = s.alarms := by
  refine ⟨?_, ?_, ?_, ?_, ?_, ?_, ?_, ?_, ?_, ?_, ?_, ?_, ?_, ?_, ?_, ?_, ?_⟩ <;> (cases p <;> rfl)

/-- A latch changes the alarms and the notification-pending flag alone. -/
@[simp] theorem State.latch_keeps (k : AlarmKind) (s : State) :
    (s.latch k).pending = s.pending ∧ (s.latch k).phase = s.phase ∧ (s.latch k).timeBase = s.timeBase ∧
    (s.latch k).addrPins = s.addrPins ∧ (s.latch k).rxA = s.rxA ∧ (s.latch k).rxB = s.rxB ∧
    (s.latch k).device = s.device ∧ (s.latch k).strays = s.strays ∧ (s.latch k).tables = s.tables ∧
    (s.latch k).flows = s.flows ∧ (s.latch k).m = s.m ∧ (s.latch k).pool = s.pool ∧
    (s.latch k).sched = s.sched ∧ (s.latch k).out = s.out ∧ (s.latch k).ret = s.ret ∧
    (s.latch k).store = s.store := by
  refine ⟨?_, ?_, ?_, ?_, ?_, ?_, ?_, ?_, ?_, ?_, ?_, ?_, ?_, ?_, ?_, ?_⟩ <;> (unfold State.latch; split <;> rfl)

/-- What `latchAll` leaves alone: any field a latch leaves alone. -/
theorem State.latchAll_keeps {α : Type} (f : State → α) (hf : ∀ k s, f (State.latch k s) = f s) (ks : List AlarmKind) :
    ∀ s : State, f (s.latchAll ks) = f s := by
  induction ks with
  | nil => intro s; rfl
  | cons k ks ih => intro s; exact (ih (s.latch k)).trans (hf k s)

/-- Several latches change what one latch changes. -/
@[simp] theorem State.latchAll_frame (ks : List AlarmKind) (s : State) :
    (s.latchAll ks).pending = s.pending ∧ (s.latchAll ks).phase = s.phase ∧ (s.latchAll ks).timeBase = s.timeBase ∧
    (s.latchAll ks).addrPins = s.addrPins ∧ (s.latchAll ks).rxA = s.rxA ∧ (s.latchAll ks).rxB = s.rxB ∧
    (s.latchAll ks).device = s.device ∧ (s.latchAll ks).strays = s.strays ∧ (s.latchAll ks).tables = s.tables ∧
    (s.latchAll ks).flows = s.flows ∧ (s.latchAll ks).m = s.m ∧ (s.latchAll ks).pool = s.pool ∧
    (s.latchAll ks).sched = s.sched ∧ (s.latchAll ks).out = s.out ∧ (s.latchAll ks).ret = s.ret ∧
    (s.latchAll ks).store = s.store := by
  refine ⟨?_, ?_, ?_, ?_, ?_, ?_, ?_, ?_, ?_, ?_, ?_, ?_, ?_, ?_, ?_, ?_⟩ <;> exact State.latchAll_keeps _ (fun k s => by simp) ks s

/-- A condition report changes what a latch changes. -/
@[simp] theorem State.report_keeps (k : AlarmKind) (h : Bool) (s : State) :
    (s.report k h).pending = s.pending ∧ (s.report k h).phase = s.phase ∧ (s.report k h).timeBase = s.timeBase ∧
    (s.report k h).addrPins = s.addrPins ∧ (s.report k h).rxA = s.rxA ∧ (s.report k h).rxB = s.rxB ∧
    (s.report k h).device = s.device ∧ (s.report k h).strays = s.strays ∧ (s.report k h).tables = s.tables ∧
    (s.report k h).flows = s.flows ∧ (s.report k h).m = s.m ∧ (s.report k h).pool = s.pool ∧
    (s.report k h).sched = s.sched ∧ (s.report k h).out = s.out ∧ (s.report k h).ret = s.ret ∧
    (s.report k h).store = s.store := by
  refine ⟨?_, ?_, ?_, ?_, ?_, ?_, ?_, ?_, ?_, ?_, ?_, ?_, ?_, ?_, ?_, ?_⟩ <;> (unfold State.report; split; (split; rfl; simp); rfl)

/-- An allocation changes the pool, and the alarms with it. -/
@[simp] theorem State.allocBuffer_keeps (s : State) :
    (s.allocBuffer).pending = s.pending ∧ (s.allocBuffer).phase = s.phase ∧ (s.allocBuffer).timeBase = s.timeBase ∧
    (s.allocBuffer).addrPins = s.addrPins ∧ (s.allocBuffer).rxA = s.rxA ∧ (s.allocBuffer).rxB = s.rxB ∧
    (s.allocBuffer).device = s.device ∧ (s.allocBuffer).strays = s.strays ∧ (s.allocBuffer).tables = s.tables ∧
    (s.allocBuffer).flows = s.flows ∧ (s.allocBuffer).m = s.m ∧ (s.allocBuffer).sched = s.sched ∧
    (s.allocBuffer).out = s.out ∧ (s.allocBuffer).ret = s.ret ∧ (s.allocBuffer).store = s.store := by
  refine ⟨?_, ?_, ?_, ?_, ?_, ?_, ?_, ?_, ?_, ?_, ?_, ?_, ?_, ?_, ?_⟩ <;> simp [State.allocBuffer]

/-- A freeing changes the pool, and the alarms with it. -/
@[simp] theorem State.freeBuffers_keeps (n : Nat) (s : State) :
    (s.freeBuffers n).pending = s.pending ∧ (s.freeBuffers n).phase = s.phase ∧ (s.freeBuffers n).timeBase = s.timeBase ∧
    (s.freeBuffers n).addrPins = s.addrPins ∧ (s.freeBuffers n).rxA = s.rxA ∧ (s.freeBuffers n).rxB = s.rxB ∧
    (s.freeBuffers n).device = s.device ∧ (s.freeBuffers n).strays = s.strays ∧ (s.freeBuffers n).tables = s.tables ∧
    (s.freeBuffers n).flows = s.flows ∧ (s.freeBuffers n).m = s.m ∧ (s.freeBuffers n).sched = s.sched ∧
    (s.freeBuffers n).out = s.out ∧ (s.freeBuffers n).ret = s.ret ∧ (s.freeBuffers n).store = s.store := by
  refine ⟨?_, ?_, ?_, ?_, ?_, ?_, ?_, ?_, ?_, ?_, ?_, ?_, ?_, ?_, ?_⟩ <;> (unfold State.freeBuffers; split <;> simp)

/-- Writing a flow context changes the contexts alone. -/
@[simp] theorem State.setFlow_keeps (n : Index) (c : Ctx) (s : State) :
    (s.setFlow n c).pending = s.pending ∧ (s.setFlow n c).phase = s.phase ∧ (s.setFlow n c).timeBase = s.timeBase ∧
    (s.setFlow n c).addrPins = s.addrPins ∧ (s.setFlow n c).rxA = s.rxA ∧ (s.setFlow n c).rxB = s.rxB ∧
    (s.setFlow n c).device = s.device ∧ (s.setFlow n c).strays = s.strays ∧ (s.setFlow n c).tables = s.tables ∧
    (s.setFlow n c).m = s.m ∧ (s.setFlow n c).pool = s.pool ∧ (s.setFlow n c).sched = s.sched ∧
    (s.setFlow n c).out = s.out ∧ (s.setFlow n c).ret = s.ret ∧ (s.setFlow n c).agent = s.agent ∧
    (s.setFlow n c).store = s.store ∧ (s.setFlow n c).alarms = s.alarms := by
  refine ⟨?_, ?_, ?_, ?_, ?_, ?_, ?_, ?_, ?_, ?_, ?_, ?_, ?_, ?_, ?_, ?_, ?_⟩ <;> rfl

/-- Writing a ring changes the Scheduler alone. -/
@[simp] theorem State.setRing_keeps (k : Fin 8) (r : List Index) (s : State) :
    (s.setRing k r).pending = s.pending ∧ (s.setRing k r).phase = s.phase ∧ (s.setRing k r).timeBase = s.timeBase ∧
    (s.setRing k r).addrPins = s.addrPins ∧ (s.setRing k r).rxA = s.rxA ∧ (s.setRing k r).rxB = s.rxB ∧
    (s.setRing k r).device = s.device ∧ (s.setRing k r).strays = s.strays ∧ (s.setRing k r).tables = s.tables ∧
    (s.setRing k r).flows = s.flows ∧ (s.setRing k r).m = s.m ∧ (s.setRing k r).pool = s.pool ∧
    (s.setRing k r).out = s.out ∧ (s.setRing k r).ret = s.ret ∧ (s.setRing k r).agent = s.agent ∧
    (s.setRing k r).store = s.store ∧ (s.setRing k r).alarms = s.alarms := by
  refine ⟨?_, ?_, ?_, ?_, ?_, ?_, ?_, ?_, ?_, ?_, ?_, ?_, ?_, ?_, ?_, ?_, ?_⟩ <;> rfl

/-- Joining a ring changes the Scheduler alone. -/
@[simp] theorem State.joinRing_keeps (k : Fin 8) (n : Index) (s : State) :
    (s.joinRing k n).pending = s.pending ∧ (s.joinRing k n).phase = s.phase ∧ (s.joinRing k n).timeBase = s.timeBase ∧
    (s.joinRing k n).addrPins = s.addrPins ∧ (s.joinRing k n).rxA = s.rxA ∧ (s.joinRing k n).rxB = s.rxB ∧
    (s.joinRing k n).device = s.device ∧ (s.joinRing k n).strays = s.strays ∧ (s.joinRing k n).tables = s.tables ∧
    (s.joinRing k n).flows = s.flows ∧ (s.joinRing k n).m = s.m ∧ (s.joinRing k n).pool = s.pool ∧
    (s.joinRing k n).out = s.out ∧ (s.joinRing k n).ret = s.ret ∧ (s.joinRing k n).agent = s.agent ∧
    (s.joinRing k n).store = s.store ∧ (s.joinRing k n).alarms = s.alarms := by
  refine ⟨?_, ?_, ?_, ?_, ?_, ?_, ?_, ?_, ?_, ?_, ?_, ?_, ?_, ?_, ?_, ?_, ?_⟩ <;> rfl

/-- Leaving a ring changes the Scheduler alone. -/
@[simp] theorem State.leaveRing_keeps (k : Fin 8) (n : Index) (s : State) :
    (s.leaveRing k n).pending = s.pending ∧ (s.leaveRing k n).phase = s.phase ∧ (s.leaveRing k n).timeBase = s.timeBase ∧
    (s.leaveRing k n).addrPins = s.addrPins ∧ (s.leaveRing k n).rxA = s.rxA ∧ (s.leaveRing k n).rxB = s.rxB ∧
    (s.leaveRing k n).device = s.device ∧ (s.leaveRing k n).strays = s.strays ∧ (s.leaveRing k n).tables = s.tables ∧
    (s.leaveRing k n).flows = s.flows ∧ (s.leaveRing k n).m = s.m ∧ (s.leaveRing k n).pool = s.pool ∧
    (s.leaveRing k n).out = s.out ∧ (s.leaveRing k n).ret = s.ret ∧ (s.leaveRing k n).agent = s.agent ∧
    (s.leaveRing k n).store = s.store ∧ (s.leaveRing k n).alarms = s.alarms := by
  refine ⟨?_, ?_, ?_, ?_, ?_, ?_, ?_, ?_, ?_, ?_, ?_, ?_, ?_, ?_, ?_, ?_, ?_⟩ <;> rfl

/-- Writing a flow with its ring changes contexts and rings alone. -/
@[simp] theorem State.putFlow_keeps (n : Index) (c : Ctx) (s : State) :
    (s.putFlow n c).pending = s.pending ∧ (s.putFlow n c).phase = s.phase ∧ (s.putFlow n c).timeBase = s.timeBase ∧
    (s.putFlow n c).addrPins = s.addrPins ∧ (s.putFlow n c).rxA = s.rxA ∧ (s.putFlow n c).rxB = s.rxB ∧
    (s.putFlow n c).device = s.device ∧ (s.putFlow n c).strays = s.strays ∧ (s.putFlow n c).tables = s.tables ∧
    (s.putFlow n c).m = s.m ∧ (s.putFlow n c).pool = s.pool ∧ (s.putFlow n c).out = s.out ∧
    (s.putFlow n c).ret = s.ret ∧ (s.putFlow n c).agent = s.agent ∧ (s.putFlow n c).store = s.store ∧
    (s.putFlow n c).alarms = s.alarms := by
  refine ⟨?_, ?_, ?_, ?_, ?_, ?_, ?_, ?_, ?_, ?_, ?_, ?_, ?_, ?_, ?_, ?_⟩ <;> (unfold State.putFlow; split <;> simp)

/-- A flow that settles changes contexts, rings, alarms and the notification-pending flag alone. -/
@[simp] theorem State.settleFlow_keeps (n : Index) (c : Ctx) (s : State) :
    (s.settleFlow n c).pending = s.pending ∧ (s.settleFlow n c).phase = s.phase ∧ (s.settleFlow n c).timeBase = s.timeBase ∧
    (s.settleFlow n c).addrPins = s.addrPins ∧ (s.settleFlow n c).rxA = s.rxA ∧ (s.settleFlow n c).rxB = s.rxB ∧
    (s.settleFlow n c).device = s.device ∧ (s.settleFlow n c).strays = s.strays ∧ (s.settleFlow n c).tables = s.tables ∧
    (s.settleFlow n c).m = s.m ∧ (s.settleFlow n c).pool = s.pool ∧ (s.settleFlow n c).out = s.out ∧
    (s.settleFlow n c).ret = s.ret ∧ (s.settleFlow n c).store = s.store := by
  refine ⟨?_, ?_, ?_, ?_, ?_, ?_, ?_, ?_, ?_, ?_, ?_, ?_, ?_, ?_⟩ <;> (unfold State.settleFlow; dsimp only; split <;> simp)

/-- Reporting the flow conditions changes the alarms and the notification-pending flag alone. -/
@[simp] theorem State.reportFlows_keeps (s : State) :
    (s.reportFlows).pending = s.pending ∧ (s.reportFlows).phase = s.phase ∧ (s.reportFlows).timeBase = s.timeBase ∧
    (s.reportFlows).addrPins = s.addrPins ∧ (s.reportFlows).rxA = s.rxA ∧ (s.reportFlows).rxB = s.rxB ∧
    (s.reportFlows).device = s.device ∧ (s.reportFlows).strays = s.strays ∧ (s.reportFlows).tables = s.tables ∧
    (s.reportFlows).flows = s.flows ∧ (s.reportFlows).m = s.m ∧ (s.reportFlows).pool = s.pool ∧
    (s.reportFlows).sched = s.sched ∧ (s.reportFlows).out = s.out ∧ (s.reportFlows).ret = s.ret ∧
    (s.reportFlows).store = s.store := by
  refine ⟨?_, ?_, ?_, ?_, ?_, ?_, ?_, ?_, ?_, ?_, ?_, ?_, ?_, ?_, ?_, ?_⟩ <;> simp [State.reportFlows]

/-- Changing one flow changes what settling it changes. -/
@[simp] theorem State.changeFlow_keeps (n : Index) (f : Ctx → Ctx) (s : State) :
    (s.changeFlow n f).pending = s.pending ∧ (s.changeFlow n f).phase = s.phase ∧ (s.changeFlow n f).timeBase = s.timeBase ∧
    (s.changeFlow n f).addrPins = s.addrPins ∧ (s.changeFlow n f).rxA = s.rxA ∧ (s.changeFlow n f).rxB = s.rxB ∧
    (s.changeFlow n f).device = s.device ∧ (s.changeFlow n f).strays = s.strays ∧ (s.changeFlow n f).tables = s.tables ∧
    (s.changeFlow n f).m = s.m ∧ (s.changeFlow n f).pool = s.pool ∧ (s.changeFlow n f).out = s.out ∧
    (s.changeFlow n f).ret = s.ret ∧ (s.changeFlow n f).store = s.store := by
  refine ⟨?_, ?_, ?_, ?_, ?_, ?_, ?_, ?_, ?_, ?_, ?_, ?_, ?_, ?_⟩ <;> simp [State.changeFlow]

/-- Adding a place changes the agent alone. -/
@[simp] theorem State.addPlace_keeps (p : Place) (s : State) :
    (s.addPlace p).pending = s.pending ∧ (s.addPlace p).phase = s.phase ∧ (s.addPlace p).timeBase = s.timeBase ∧
    (s.addPlace p).addrPins = s.addrPins ∧ (s.addPlace p).rxA = s.rxA ∧ (s.addPlace p).rxB = s.rxB ∧
    (s.addPlace p).device = s.device ∧ (s.addPlace p).strays = s.strays ∧ (s.addPlace p).tables = s.tables ∧
    (s.addPlace p).flows = s.flows ∧ (s.addPlace p).m = s.m ∧ (s.addPlace p).pool = s.pool ∧
    (s.addPlace p).sched = s.sched ∧ (s.addPlace p).out = s.out ∧ (s.addPlace p).ret = s.ret ∧
    (s.addPlace p).store = s.store ∧ (s.addPlace p).alarms = s.alarms := by
  refine ⟨?_, ?_, ?_, ?_, ?_, ?_, ?_, ?_, ?_, ?_, ?_, ?_, ?_, ?_, ?_, ?_, ?_⟩ <;> rfl

/-- An answer changes the agent alone. -/
@[simp] theorem State.answer_keeps (c : Command) (st : Status) (r : List Byte) (s : State) :
    (s.answer c st r).pending = s.pending ∧ (s.answer c st r).phase = s.phase ∧ (s.answer c st r).timeBase = s.timeBase ∧
    (s.answer c st r).addrPins = s.addrPins ∧ (s.answer c st r).rxA = s.rxA ∧ (s.answer c st r).rxB = s.rxB ∧
    (s.answer c st r).device = s.device ∧ (s.answer c st r).strays = s.strays ∧ (s.answer c st r).tables = s.tables ∧
    (s.answer c st r).flows = s.flows ∧ (s.answer c st r).m = s.m ∧ (s.answer c st r).pool = s.pool ∧
    (s.answer c st r).sched = s.sched ∧ (s.answer c st r).out = s.out ∧ (s.answer c st r).ret = s.ret ∧
    (s.answer c st r).store = s.store ∧ (s.answer c st r).alarms = s.alarms := by
  refine ⟨?_, ?_, ?_, ?_, ?_, ?_, ?_, ?_, ?_, ?_, ?_, ?_, ?_, ?_, ?_, ?_, ?_⟩ <;> rfl

/-- A reservation changes the agent alone. -/
@[simp] theorem State.reservePlace_keeps (c : Command) (s : State) :
    (s.reservePlace c).pending = s.pending ∧ (s.reservePlace c).phase = s.phase ∧ (s.reservePlace c).timeBase = s.timeBase ∧
    (s.reservePlace c).addrPins = s.addrPins ∧ (s.reservePlace c).rxA = s.rxA ∧ (s.reservePlace c).rxB = s.rxB ∧
    (s.reservePlace c).device = s.device ∧ (s.reservePlace c).strays = s.strays ∧ (s.reservePlace c).tables = s.tables ∧
    (s.reservePlace c).flows = s.flows ∧ (s.reservePlace c).m = s.m ∧ (s.reservePlace c).pool = s.pool ∧
    (s.reservePlace c).sched = s.sched ∧ (s.reservePlace c).out = s.out ∧ (s.reservePlace c).ret = s.ret ∧
    (s.reservePlace c).store = s.store ∧ (s.reservePlace c).alarms = s.alarms := by
  refine ⟨?_, ?_, ?_, ?_, ?_, ?_, ?_, ?_, ?_, ?_, ?_, ?_, ?_, ?_, ?_, ?_, ?_⟩ <;> rfl

/-- Filling a reserved place changes the agent alone. -/
@[simp] theorem State.fillReserved_keeps (code : Byte) (st : Status) (r : List Byte) (s : State) :
    (s.fillReserved code st r).pending = s.pending ∧ (s.fillReserved code st r).phase = s.phase ∧ (s.fillReserved code st r).timeBase = s.timeBase ∧
    (s.fillReserved code st r).addrPins = s.addrPins ∧ (s.fillReserved code st r).rxA = s.rxA ∧ (s.fillReserved code st r).rxB = s.rxB ∧
    (s.fillReserved code st r).device = s.device ∧ (s.fillReserved code st r).strays = s.strays ∧ (s.fillReserved code st r).tables = s.tables ∧
    (s.fillReserved code st r).flows = s.flows ∧ (s.fillReserved code st r).m = s.m ∧ (s.fillReserved code st r).pool = s.pool ∧
    (s.fillReserved code st r).sched = s.sched ∧ (s.fillReserved code st r).out = s.out ∧ (s.fillReserved code st r).ret = s.ret ∧
    (s.fillReserved code st r).store = s.store ∧ (s.fillReserved code st r).alarms = s.alarms := by
  refine ⟨?_, ?_, ?_, ?_, ?_, ?_, ?_, ?_, ?_, ?_, ?_, ?_, ?_, ?_, ?_, ?_, ?_⟩ <;> rfl

/-- A command received changes the agent, and at an overrun the device counters and alarms. -/
@[simp] theorem State.receiveCommand_keeps (c : Command) (s : State) :
    (s.receiveCommand c).pending = s.pending ∧ (s.receiveCommand c).phase = s.phase ∧ (s.receiveCommand c).timeBase = s.timeBase ∧
    (s.receiveCommand c).addrPins = s.addrPins ∧ (s.receiveCommand c).rxA = s.rxA ∧ (s.receiveCommand c).rxB = s.rxB ∧
    (s.receiveCommand c).strays = s.strays ∧ (s.receiveCommand c).tables = s.tables ∧ (s.receiveCommand c).flows = s.flows ∧
    (s.receiveCommand c).m = s.m ∧ (s.receiveCommand c).pool = s.pool ∧ (s.receiveCommand c).sched = s.sched ∧
    (s.receiveCommand c).out = s.out ∧ (s.receiveCommand c).ret = s.ret ∧ (s.receiveCommand c).store = s.store := by
  refine ⟨?_, ?_, ?_, ?_, ?_, ?_, ?_, ?_, ?_, ?_, ?_, ?_, ?_, ?_, ?_⟩ <;> (unfold State.receiveCommand; split; rfl; simp)

/-- A cell handed to the agent changes the agent, the device counters and the alarms alone. -/
@[simp] theorem State.deliver_keeps (fl : Byte) (c : Command) (s : State) :
    (s.deliver fl c).pending = s.pending ∧ (s.deliver fl c).phase = s.phase ∧ (s.deliver fl c).timeBase = s.timeBase ∧
    (s.deliver fl c).addrPins = s.addrPins ∧ (s.deliver fl c).rxA = s.rxA ∧ (s.deliver fl c).rxB = s.rxB ∧
    (s.deliver fl c).strays = s.strays ∧ (s.deliver fl c).tables = s.tables ∧ (s.deliver fl c).flows = s.flows ∧
    (s.deliver fl c).m = s.m ∧ (s.deliver fl c).pool = s.pool ∧ (s.deliver fl c).sched = s.sched ∧
    (s.deliver fl c).out = s.out ∧ (s.deliver fl c).ret = s.ret ∧ (s.deliver fl c).store = s.store := by
  refine ⟨?_, ?_, ?_, ?_, ?_, ?_, ?_, ?_, ?_, ?_, ?_, ?_, ?_, ?_, ?_⟩ <;> (unfold State.deliver; split; simp; rfl)

/-- A payload handed to the agent changes what delivering its command changes. -/
@[simp] theorem State.handOver_keeps (p : List Byte) (s : State) :
    (s.handOver p).pending = s.pending ∧ (s.handOver p).phase = s.phase ∧ (s.handOver p).timeBase = s.timeBase ∧
    (s.handOver p).addrPins = s.addrPins ∧ (s.handOver p).rxA = s.rxA ∧ (s.handOver p).rxB = s.rxB ∧
    (s.handOver p).strays = s.strays ∧ (s.handOver p).tables = s.tables ∧ (s.handOver p).flows = s.flows ∧
    (s.handOver p).m = s.m ∧ (s.handOver p).pool = s.pool ∧ (s.handOver p).sched = s.sched ∧
    (s.handOver p).out = s.out ∧ (s.handOver p).ret = s.ret ∧ (s.handOver p).store = s.store := by
  refine ⟨?_, ?_, ?_, ?_, ?_, ?_, ?_, ?_, ?_, ?_, ?_, ?_, ?_, ?_, ?_⟩ <;> simp [State.handOver]

/-- Context M settling changes its record, and the alarms with it. -/
@[simp] theorem State.settleM_keeps (s : State) :
    s.settleM.2.pending = s.pending ∧ s.settleM.2.phase = s.phase ∧ s.settleM.2.timeBase = s.timeBase ∧
    s.settleM.2.addrPins = s.addrPins ∧ s.settleM.2.rxA = s.rxA ∧ s.settleM.2.rxB = s.rxB ∧
    s.settleM.2.device = s.device ∧ s.settleM.2.strays = s.strays ∧ s.settleM.2.tables = s.tables ∧
    s.settleM.2.flows = s.flows ∧ s.settleM.2.pool = s.pool ∧ s.settleM.2.sched = s.sched ∧
    s.settleM.2.out = s.out ∧ s.settleM.2.ret = s.ret ∧ s.settleM.2.store = s.store ∧
    s.settleM.2.m = (s.m.settleRun s.mParams s.timeBase s.m.settleFuel).ctx ∧
    s.settleM.1 = (s.m.settleRun s.mParams s.timeBase s.m.settleFuel).released := by
  refine ⟨?_, ?_, ?_, ?_, ?_, ?_, ?_, ?_, ?_, ?_, ?_, ?_, ?_, ?_, ?_, ?_, ?_⟩ <;>
    (unfold State.settleM; dsimp only; try (split <;> simp))

/-- A released cell handed over changes the agent, the device counters, the pool and the alarms alone. -/
@[simp] theorem State.handOverCell_keeps (b : Buffer) (s : State) :
    (s.handOverCell b).pending = s.pending ∧ (s.handOverCell b).phase = s.phase ∧
    (s.handOverCell b).timeBase = s.timeBase ∧ (s.handOverCell b).addrPins = s.addrPins ∧
    (s.handOverCell b).rxA = s.rxA ∧ (s.handOverCell b).rxB = s.rxB ∧ (s.handOverCell b).strays = s.strays ∧
    (s.handOverCell b).tables = s.tables ∧ (s.handOverCell b).flows = s.flows ∧ (s.handOverCell b).m = s.m ∧
    (s.handOverCell b).sched = s.sched ∧ (s.handOverCell b).out = s.out ∧ (s.handOverCell b).ret = s.ret ∧
    (s.handOverCell b).store = s.store := by
  refine ⟨?_, ?_, ?_, ?_, ?_, ?_, ?_, ?_, ?_, ?_, ?_, ?_, ?_, ?_⟩ <;>
    (unfold State.handOverCell; split <;> simp)

/-- Consulting the slots leaves the store state and counts itself (R187). -/
@[simp] theorem Store.consult_keeps (store : Store) :
    store.consult.state = store.state ∧ store.consult.consultations = store.consultations + 1 ∧
    store.consult.slot0 = store.judgeSlot false store.slot0 ∧ store.consult.slot1 = store.judgeSlot true store.slot1 :=
  ⟨rfl, rfl, rfl, rfl⟩

/-- Writing the PENDING bank changes the tables alone. -/
@[simp] theorem State.writePending_keeps (b : Bank) (s : State) :
    (s.writePending b).pending = s.pending ∧ (s.writePending b).phase = s.phase ∧ (s.writePending b).timeBase = s.timeBase ∧
    (s.writePending b).addrPins = s.addrPins ∧ (s.writePending b).rxA = s.rxA ∧ (s.writePending b).rxB = s.rxB ∧
    (s.writePending b).device = s.device ∧ (s.writePending b).strays = s.strays ∧ (s.writePending b).flows = s.flows ∧
    (s.writePending b).m = s.m ∧ (s.writePending b).pool = s.pool ∧ (s.writePending b).sched = s.sched ∧
    (s.writePending b).out = s.out ∧ (s.writePending b).ret = s.ret ∧ (s.writePending b).agent = s.agent ∧
    (s.writePending b).store = s.store ∧ (s.writePending b).alarms = s.alarms := by
  refine ⟨?_, ?_, ?_, ?_, ?_, ?_, ?_, ?_, ?_, ?_, ?_, ?_, ?_, ?_, ?_, ?_, ?_⟩ <;> rfl

/-- An idle cell on Out changes the transmitter and IDLE_SENT alone. -/
@[simp] theorem State.sendIdle_keeps (s : State) :
    (s.sendIdle).pending = s.pending ∧ (s.sendIdle).phase = s.phase ∧ (s.sendIdle).timeBase = s.timeBase ∧
    (s.sendIdle).addrPins = s.addrPins ∧ (s.sendIdle).rxA = s.rxA ∧ (s.sendIdle).rxB = s.rxB ∧
    (s.sendIdle).strays = s.strays ∧ (s.sendIdle).tables = s.tables ∧ (s.sendIdle).flows = s.flows ∧
    (s.sendIdle).m = s.m ∧ (s.sendIdle).pool = s.pool ∧ (s.sendIdle).sched = s.sched ∧
    (s.sendIdle).ret = s.ret ∧ (s.sendIdle).agent = s.agent ∧ (s.sendIdle).store = s.store ∧
    (s.sendIdle).alarms = s.alarms := by
  refine ⟨?_, ?_, ?_, ?_, ?_, ?_, ?_, ?_, ?_, ?_, ?_, ?_, ?_, ?_, ?_, ?_⟩ <;> rfl

/-- An idle cell on the return directions changes the return transmitters alone. -/
@[simp] theorem State.returnIdle_keeps (s : State) :
    (s.returnIdle).pending = s.pending ∧ (s.returnIdle).phase = s.phase ∧ (s.returnIdle).timeBase = s.timeBase ∧
    (s.returnIdle).addrPins = s.addrPins ∧ (s.returnIdle).rxA = s.rxA ∧ (s.returnIdle).rxB = s.rxB ∧
    (s.returnIdle).device = s.device ∧ (s.returnIdle).strays = s.strays ∧ (s.returnIdle).tables = s.tables ∧
    (s.returnIdle).flows = s.flows ∧ (s.returnIdle).m = s.m ∧ (s.returnIdle).pool = s.pool ∧
    (s.returnIdle).sched = s.sched ∧ (s.returnIdle).out = s.out ∧ (s.returnIdle).agent = s.agent ∧
    (s.returnIdle).store = s.store ∧ (s.returnIdle).alarms = s.alarms := by
  refine ⟨?_, ?_, ?_, ?_, ?_, ?_, ?_, ?_, ?_, ?_, ?_, ?_, ?_, ?_, ?_, ?_, ?_⟩ <;> rfl

/-- A reply taken changes the return transmitters and the agent alone. -/
@[simp] theorem State.sendReply_keeps (r : Reply) (l : List Place) (s : State) :
    (s.sendReply r l).pending = s.pending ∧ (s.sendReply r l).phase = s.phase ∧ (s.sendReply r l).timeBase = s.timeBase ∧
    (s.sendReply r l).addrPins = s.addrPins ∧ (s.sendReply r l).rxA = s.rxA ∧ (s.sendReply r l).rxB = s.rxB ∧
    (s.sendReply r l).device = s.device ∧ (s.sendReply r l).strays = s.strays ∧ (s.sendReply r l).tables = s.tables ∧
    (s.sendReply r l).flows = s.flows ∧ (s.sendReply r l).m = s.m ∧ (s.sendReply r l).pool = s.pool ∧
    (s.sendReply r l).sched = s.sched ∧ (s.sendReply r l).out = s.out ∧ (s.sendReply r l).store = s.store ∧
    (s.sendReply r l).alarms = s.alarms := by
  refine ⟨?_, ?_, ?_, ?_, ?_, ?_, ?_, ?_, ?_, ?_, ?_, ?_, ?_, ?_, ?_, ?_⟩ <;> rfl

/-- The end of a cell time changes the pool and the transmitter, and the alarms with them. -/
@[simp] theorem State.freeSent_keeps (s : State) :
    (s.freeSent).pending = s.pending ∧ (s.freeSent).phase = s.phase ∧ (s.freeSent).timeBase = s.timeBase ∧
    (s.freeSent).addrPins = s.addrPins ∧ (s.freeSent).rxA = s.rxA ∧ (s.freeSent).rxB = s.rxB ∧
    (s.freeSent).device = s.device ∧ (s.freeSent).strays = s.strays ∧ (s.freeSent).tables = s.tables ∧
    (s.freeSent).flows = s.flows ∧ (s.freeSent).m = s.m ∧ (s.freeSent).sched = s.sched ∧
    (s.freeSent).ret = s.ret ∧ (s.freeSent).store = s.store := by
  refine ⟨?_, ?_, ?_, ?_, ?_, ?_, ?_, ?_, ?_, ?_, ?_, ?_, ?_, ?_⟩ <;> (unfold State.freeSent; split; simp; rfl)

/-! ## The store's judgement -/

/-- A slot is judged VALID exactly when it holds an image whose check matches and whose contents have not decayed
(R187). -/
theorem Store.judgeSlot_eq_some (store : Store) (slot : Bool) (contents : Option Image) (i : Image) :
    store.judgeSlot slot contents = some i ↔
      contents = some i ∧ i.intact = true ∧ Config.slotDecayed store.consultations slot = false := by
  simp [Store.judgeSlot, Option.filter_eq_some_iff]

@[simp] theorem Store.judgeSlot_none (store : Store) (slot : Bool) : store.judgeSlot slot none = none := rfl

/-- An image as a write forms it carries the check that matches (R187). -/
@[simp] theorem Image.form_intact (generation : Count) (bank : Bank) (settings : Settings) :
    (Image.form generation bank settings).intact = true := by simp [Image.intact, Image.form]

/-! ## The fields written -/

@[simp] theorem State.setRx_rx (p : Path) (r : Receiver) (s : State) : (s.setRx p r).rx p = r := by cases p <;> rfl

theorem State.setRx_rx_ne {p q : Path} (h : p ≠ q) (r : Receiver) (s : State) : (s.setRx p r).rx q = s.rx q := by
  cases p <;> cases q <;> first | rfl | exact absurd rfl h

@[simp] theorem State.setFlow_flows (n : Index) (c : Ctx) (s : State) : (s.setFlow n c).flows = s.flows.set n.val c := rfl

@[simp] theorem State.setRing_rings (k : Fin 8) (r : List Index) (s : State) :
    (s.setRing k r).sched.rings = s.sched.rings.set k.val r := rfl

@[simp] theorem State.setRing_position (k : Fin 8) (r : List Index) (s : State) :
    (s.setRing k r).sched.position = s.sched.position ∧ (s.setRing k r).sched.slotUsed = s.sched.slotUsed := ⟨rfl, rfl⟩

@[simp] theorem State.addPlace_replies (p : Place) (s : State) :
    (s.addPlace p).agent.replies = s.agent.replies ++ [p] := rfl

@[simp] theorem State.addPlace_agent (p : Place) (s : State) :
    (s.addPlace p).agent.commands = s.agent.commands ∧ (s.addPlace p).agent.strap = s.agent.strap ∧
      (s.addPlace p).agent.restartWaiting = s.agent.restartWaiting ∧
      (s.addPlace p).agent.overrun = s.agent.overrun ∧ (s.addPlace p).agent.integrity = s.agent.integrity ∧
      (s.addPlace p).agent.notifyPending = s.agent.notifyPending := ⟨rfl, rfl, rfl, rfl, rfl, rfl⟩

@[simp] theorem State.latch_agent (k : AlarmKind) (s : State) :
    (s.latch k).agent.commands = s.agent.commands ∧ (s.latch k).agent.replies = s.agent.replies ∧
      (s.latch k).agent.strap = s.agent.strap ∧ (s.latch k).agent.restartWaiting = s.agent.restartWaiting ∧
      (s.latch k).agent.overrun = s.agent.overrun ∧ (s.latch k).agent.integrity = s.agent.integrity := by
  unfold State.latch; split <;> exact ⟨rfl, rfl, rfl, rfl, rfl, rfl⟩

@[simp] theorem State.report_agent (k : AlarmKind) (h : Bool) (s : State) :
    (s.report k h).agent.commands = s.agent.commands ∧ (s.report k h).agent.replies = s.agent.replies ∧
      (s.report k h).agent.strap = s.agent.strap ∧ (s.report k h).agent.restartWaiting = s.agent.restartWaiting ∧
      (s.report k h).agent.overrun = s.agent.overrun ∧ (s.report k h).agent.integrity = s.agent.integrity := by
  unfold State.report; split
  · split
    · exact ⟨rfl, rfl, rfl, rfl, rfl, rfl⟩
    · simp
  · exact ⟨rfl, rfl, rfl, rfl, rfl, rfl⟩

@[simp] theorem State.latch_holding (k : AlarmKind) (s : State) :
    (s.latch k).alarms.holding = s.alarms.holding := by
  unfold State.latch; split <;> rfl

@[simp] theorem State.allocBuffer_pool (s : State) :
    s.allocBuffer.pool = { free := s.pool.free - 1, lowWater := min s.pool.lowWater (s.pool.free - 1) } := by
  simp [State.allocBuffer]

@[simp] theorem State.freeBuffers_pool (n : Nat) (s : State) :
    (s.freeBuffers n).pool = { s.pool with free := s.pool.free + n } := by
  unfold State.freeBuffers; split
  · subst_vars; rfl
  · simp

end Sys2Proof.Machine
end

