-- ==== Sys2Proof/Laws/Agent.lean ====
section
/-! SUPPORT. Commands handed to the Management Agent: what `agentTakes` does when the agent is ready, when it must wait,
and when the command is not for this part; bytes of fitted arguments; the reply queue's operations. -/

namespace Sys2Proof.Machine

open Sys2Proof

/-! ## Bytes -/

theorem fitBytes_of_length {n : Nat} {bytes : List Byte} (h : bytes.length = n) : fitBytes n bytes = bytes := by
  subst h; simp [fitBytes]

theorem fitBytes_length (n : Nat) (bytes : List Byte) : (fitBytes n bytes).length = n := by
  simp [fitBytes]

/-- A byte within the fitted length reads as the byte carried, or 0 where none was carried. -/
theorem byteAt_fitBytes {n i : Nat} (h : i < n) (bytes : List Byte) :
    byteAt (fitBytes n bytes) i = byteAt bytes i := by
  unfold byteAt fitBytes
  rw [List.getD_eq_getElem?_getD, List.getD_eq_getElem?_getD, List.getElem?_take_of_lt h]
  by_cases hi : i < bytes.length
  · rw [List.getElem?_append_left hi]
  · have hi : bytes.length ≤ i := Nat.le_of_not_lt hi
    rw [List.getElem?_append_right hi, List.getElem?_replicate, List.getElem?_eq_none hi]
    split <;> rfl

/-! ## Settling -/

/-- Context M with nothing to do settles to itself and releases nothing. -/
theorem State.settleM_stay {s : State} (hm : s.m.micro s.mParams s.timeBase = .stay s.m) : s.settleM = ([], s) := by
  unfold State.settleM Ctx.settleFuel
  rw [Ctx.settleRun_stay hm]; rfl

/-- Nothing is left to do: the agent cannot execute, context M stays and no released cell waits. -/
theorem State.settle_done {s : State} (fuel : Nat) (hc : s.agent.canExecute = false)
    (hm : s.m.micro s.mParams s.timeBase = .stay s.m) : s.settle fuel [] = s := by
  cases fuel with
  | zero => rfl
  | succ n => simp [State.settle, State.settleM_stay hm, hc]

/-- The head executes first while it may. -/
theorem State.settle_execute {s : State} (fuel : Nat) (waiting : List Buffer) (hc : s.agent.canExecute = true)
    (hm : s.m.micro s.mParams s.timeBase = .stay s.m) :
    s.settle (fuel + 1) waiting = s.executeHead.settle fuel waiting := by
  simp [State.settle, State.settleM_stay hm, hc]

/-- A waiting cell is handed over when nothing can execute. -/
theorem State.settle_handOver {s : State} (fuel : Nat) (b : Buffer) (rest : List Buffer) (hc : s.agent.canExecute = false)
    (hm : s.m.micro s.mParams s.timeBase = .stay s.m) :
    s.settle (fuel + 1) (b :: rest) = (s.handOverCell b).settle fuel rest := by
  simp [State.settle, State.settleM_stay hm, hc]

theorem Agent.canExecute_nil {g : Agent} (h : g.commands = []) : g.canExecute = false := by
  simp [Agent.canExecute, h]

/-! ## A command handed over -/

/-- The command that a row of the table hands over. -/
def handed (code target tag : Byte) (args : List Byte) : Command :=
  { target := target, tag := tag, code := code, args := fitBytes Config.argBytes args }

/-- A ready agent executes the command at once: the whole effect is that of its execution, as long as that leaves
nothing for the agent or context M to do. -/
theorem State.agentTakes_ready {s : State} {code target tag : Byte} {args : List Byte} (h : s.agentReady target)
    (hc : (runCommand (handed code target tag args) s).agent.commands = [])
    (hm : (runCommand (handed code target tag args) s).m.micro
        (runCommand (handed code target tag args) s).mParams (runCommand (handed code target tag args) s).timeBase
      = .stay (runCommand (handed code target tag args) s).m) :
    s.agentTakes code target tag args = runCommand (handed code target tag args) s := by
  obtain ⟨hp, ha, hq, hr, hw, hs0⟩ := h
  have hs : ({ s with agent := { s.agent with commands := [] } } : State) = s := by rw [← hq]
  have hd : s.deliver 0 (handed code target tag args)
      = { s with agent := { s.agent with commands := [handed code target tag args] } } := by
    simp [State.deliver, State.receiveCommand, handed, ha, hq, Config.commandPlaces]
  have he : ({ s with agent := { s.agent with commands := [handed code target tag args] } } : State).executeHead
      = runCommand (handed code target tag args) s := by
    simp only [State.executeHead]; rw [hs]
  have hx : ({ s with agent := { s.agent with commands := [handed code target tag args] } } : State).agent.canExecute
      = true := by
    simp [Agent.canExecute, Agent.placeFree, hw, hr]
  unfold State.agentTakes
  rw [if_pos hp]
  show (s.deliver 0 (handed code target tag args)).settleAgent = _
  rw [hd]
  unfold State.settleAgent State.settleFuel
  rw [State.settle_execute _ _ hx hs0, he]
  exact State.settle_done _ (Agent.canExecute_nil hc) hm

/-- A ready agent's whole effect, named: the state its execution leaves, where nothing more is to do. -/
theorem State.agentTakes_eq {s t : State} {code target tag : Byte} {args : List Byte} (h : s.agentReady target)
    (hr : runCommand (handed code target tag args) s = t) (hc : t.agent.commands = [])
    (hm : t.m.micro t.mParams t.timeBase = .stay t.m) : s.agentTakes code target tag args = t := by
  subst hr; exact State.agentTakes_ready h hc hm

/-- The argument bytes of a command of the table, read as its execution reads them. -/
theorem handed_args {code target tag : Byte} {args : List Byte} (h : args.length = 49) :
    (handed code target tag args).args = args := fitBytes_of_length (n := 49) h

theorem handed_arg {code target tag : Byte} {args : List Byte} (i : Nat) (h : args.length = 49) :
    (handed code target tag args).arg i = byteAt args i := by
  unfold Command.arg; rw [handed_args h]

theorem handed_arg16 {code target tag : Byte} {args : List Byte} (i : Nat) (h : args.length = 49) :
    (handed code target tag args).arg16 i = wordAt args i := by
  unfold Command.arg16; rw [handed_args h]

theorem handed_clears {code target tag : Byte} {args : List Byte} (i : Nat) (h : args.length = 49) :
    (handed code target tag args).clears i = (byteAt args i != 0) := by
  unfold Command.clears; rw [handed_arg i h]

/-- An answer is a reply at the tail with the command's tag and code (R155, R156). -/
theorem answer_handed (code target tag : Byte) (args : List Byte) (st : Status) (result : List Byte) (s : State) :
    s.answer (handed code target tag args) st result = s.replied tag code st result := rfl

theorem reservePlace_handed (code target tag : Byte) (args : List Byte) (s : State) :
    s.reservePlace (handed code target tag args) = s.withReserved tag code := rfl

/-- Which execution each code of section 12.2 names. -/
theorem runCommand_codes (target tag : Byte) (args : List Byte) (s : State) :
    runCommand (handed 0x01 target tag args) s = runEcho (handed 0x01 target tag args) s ∧
    runCommand (handed 0x02 target tag args) s = runGetStatus (handed 0x02 target tag args) s ∧
    runCommand (handed 0x10 target tag args) s = runGetEntry (handed 0x10 target tag args) s ∧
    runCommand (handed 0x11 target tag args) s = runPutEntry (handed 0x11 target tag args) s ∧
    runCommand (handed 0x12 target tag args) s = runGetSlots (handed 0x12 target tag args) s ∧
    runCommand (handed 0x13 target tag args) s = runPutSlots (handed 0x13 target tag args) s ∧
    runCommand (handed 0x14 target tag args) s = runPutCalHeader (handed 0x14 target tag args) s ∧
    runCommand (handed 0x18 target tag args) s = runCommit (handed 0x18 target tag args) s ∧
    runCommand (handed 0x19 target tag args) s = runAbandon (handed 0x19 target tag args) s ∧
    runCommand (handed 0x20 target tag args) s = runGetCounters (handed 0x20 target tag args) s ∧
    runCommand (handed 0x21 target tag args) s = runGetDeviceCounters (handed 0x21 target tag args) s ∧
    runCommand (handed 0x24 target tag args) s = runGetAlarms (handed 0x24 target tag args) s ∧
    runCommand (handed 0x25 target tag args) s = runClearAlarms (handed 0x25 target tag args) s ∧
    runCommand (handed 0x28 target tag args) s = runGetSettings (handed 0x28 target tag args) s ∧
    runCommand (handed 0x29 target tag args) s = runPutSettings (handed 0x29 target tag args) s ∧
    runCommand (handed 0x2C target tag args) s = runGetStrays (handed 0x2C target tag args) s ∧
    runCommand (handed 0x2D target tag args) s = runClearStrays (handed 0x2D target tag args) s ∧
    runCommand (handed 0x30 target tag args) s = runResetFlow (handed 0x30 target tag args) s ∧
    runCommand (handed 0x38 target tag args) s = runSave (handed 0x38 target tag args) s ∧
    runCommand (handed 0x39 target tag args) s = runLoad (handed 0x39 target tag args) s :=
  ⟨rfl, rfl, rfl, rfl, rfl, rfl, rfl, rfl, rfl, rfl, rfl, rfl, rfl, rfl, rfl, rfl, rfl, rfl, rfl, rfl⟩

/-- RESTART's code runs by its kind byte (R171). -/
theorem runCommand_restart (target tag : Byte) (args : List Byte) (s : State) :
    runCommand (handed 0x3C target tag args) s
      = if (handed 0x3C target tag args).arg 0 = restartFullKind then runRestartFull (handed 0x3C target tag args) s
        else runRestartTraffic (handed 0x3C target tag args) s := rfl

/-- A code that names no command runs as BAD_COMMAND (R162). -/
theorem runCommand_unknown {code : Byte} (h : code ∉ commandCodes) (target tag : Byte) (args : List Byte) (s : State) :
    runCommand (handed code target tag args) s = runBadCommand (handed code target tag args) s := by
  simp only [commandCodes, List.mem_cons, List.not_mem_nil, or_false, not_or] at h
  obtain ⟨h1, h2, h3, h4, h5, h6, h7, h8, h9, h10, h11, h12, h13, h14, h15, h16, h17, h18, h19, h20, h21⟩ := h
  have hc : (handed code target tag args).code = code := rfl
  simp only [runCommand, hc, h1, h2, h3, h4, h5, h6, h7, h8, h9, h10, h11, h12, h13, h14, h15, h16, h17, h18, h19, h20,
    h21, if_false]

/-- Outside its working phase the agent is handed nothing. -/
theorem State.agentTakes_idle {s : State} {code target tag : Byte} {args : List Byte} (h : s.phase ≠ .active) :
    s.agentTakes code target tag args = s := by
  simp [State.agentTakes, h]

/-- A command that may not execute yet, with context M settled, only waits at the tail of the command queue. -/
theorem State.agentTakes_waits {s : State} {code target tag : Byte} {args : List Byte} (hp : s.phase = .active)
    (ha : s.agent.addressed target = true) (hl : s.agent.commands.length < Config.commandPlaces)
    (hb : Config.replyPlaces ≤ s.agent.replies.length ∨ s.agent.restartWaiting = true)
    (hm : s.m.micro s.mParams s.timeBase = .stay s.m) :
    s.agentTakes code target tag args
      = { s with agent := { s.agent with commands := s.agent.commands ++ [handed code target tag args] } } := by
  have hd : s.deliver 0 (handed code target tag args)
      = { s with agent := { s.agent with commands := s.agent.commands ++ [handed code target tag args] } } := by
    simp [State.deliver, State.receiveCommand, handed, ha, hl]
  unfold State.agentTakes
  rw [if_pos hp]
  show (s.deliver 0 (handed code target tag args)).settleAgent = _
  rw [hd]
  refine State.settle_done _ ?_ hm
  rcases hb with hb | hb
  · simp [Agent.canExecute, Agent.placeFree, Nat.not_lt.mpr hb]
  · simp [Agent.canExecute, hb]

/-! ## The reply queue -/

theorem fillPlace_length (code : Byte) (form : Byte → Reply) :
    ∀ places : List Place, (fillPlace code form places).length = places.length
  | [] => rfl
  | .filled _ :: rest => congrArg (· + 1) (fillPlace_length code form rest)
  | .reserved _ c :: rest => by
    unfold fillPlace; split
    · rfl
    · exact congrArg (· + 1) (fillPlace_length code form rest)

/-- A take removes exactly one filled place and leaves the reserved ones ahead of it where they stood (R128). -/
theorem takeFilled_split : ∀ (places : List Place) (r : Reply) (left : List Place),
    takeFilled places = some (r, left) →
      ∃ ahead behind, (∀ p ∈ ahead, ∃ tag code, p = Place.reserved tag code) ∧
        places = ahead ++ .filled r :: behind ∧ left = ahead ++ behind := by
  intro places
  induction places with
  | nil => intro r left h; simp [takeFilled] at h
  | cons p rest ih =>
    intro r left h
    cases p with
    | filled r' =>
      simp only [takeFilled, Option.some.injEq, Prod.mk.injEq] at h
      exact ⟨[], rest, by simp, by simp [h.1], by simp [h.2]⟩
    | reserved tag code =>
      simp only [takeFilled] at h
      split at h
      · rename_i r1 left1 h1
        simp only [Option.some.injEq, Prod.mk.injEq] at h
        obtain ⟨ahead, behind, ha, hp, hl⟩ := ih r1 left1 h1
        refine ⟨.reserved tag code :: ahead, behind, ?_, ?_, ?_⟩
        · intro p hp; rcases List.mem_cons.mp hp with rfl | hp
          · exact ⟨tag, code, rfl⟩
          · exact ha p hp
        · rw [hp, ← h.1]; rfl
        · rw [← h.2, hl]; rfl
      · cases h

end Sys2Proof.Machine
end

