-- ==== Sys2Proof/Laws/Alarms.lean ====
section
/-! SUPPORT. Sets of alarm kinds, and what latching and reporting do to them. -/

namespace Sys2Proof.Machine

open Sys2Proof

/-! ## Sets of kinds -/

theorem AlarmKind.bit_lt (k : AlarmKind) : k.bit < 12 := by cases k <;> decide

theorem AlarmKind.bit_injective {j k : AlarmKind} (h : j.bit = k.bit) : j = k := by
  cases j <;> cases k <;> first | rfl | exact absurd h (by decide)

theorem hasKind_mask (k j : AlarmKind) : hasKind k.mask j = decide (j = k) := by
  unfold hasKind AlarmKind.mask
  rw [BitVec.getLsbD_twoPow]
  by_cases h : j = k
  · subst h; simp [AlarmKind.bit_lt]
  · have : ¬ k.bit = j.bit := fun e => h (AlarmKind.bit_injective e.symm)
    simp [h, this]

@[simp] theorem hasKind_or (a b : AlarmSet) (j : AlarmKind) : hasKind (a ||| b) j = (hasKind a j || hasKind b j) := by
  simp [hasKind]

@[simp] theorem hasKind_and (a b : AlarmSet) (j : AlarmKind) : hasKind (a &&& b) j = (hasKind a j && hasKind b j) := by
  simp [hasKind]

@[simp] theorem hasKind_not (a : AlarmSet) (j : AlarmKind) : hasKind (~~~ a) j = !hasKind a j := by
  simp [hasKind, AlarmKind.bit_lt]

/-! ## Changes of the alarms alone -/

/-- Only the alarms and the notification-pending flag differ; no latch is lost and no notification withdrawn
(R159, R180, R181). -/
def State.onlyAlarms (s t : State) : Prop :=
  t = { s with alarms := t.alarms, agent := { s.agent with notifyPending := t.agent.notifyPending } } ∧
    (s.agent.notifyPending = true → t.agent.notifyPending = true) ∧
    ∀ k : AlarmKind, hasKind s.alarms.latched k = true → hasKind t.alarms.latched k = true

theorem State.onlyAlarms_refl (s : State) : s.onlyAlarms s := ⟨rfl, id, fun _ => id⟩

theorem State.onlyAlarms_trans {s t u : State} (h : s.onlyAlarms t) (h' : t.onlyAlarms u) : s.onlyAlarms u := by
  refine ⟨?_, h'.2.1 ∘ h.2.1, fun k => h'.2.2 k ∘ h.2.2 k⟩
  have e := h'.1
  rw [h.1] at e
  exact e

/-! ## Latching -/

/-- A latch sets the kind's own bit and no other. -/
theorem State.latch_latched (k j : AlarmKind) (s : State) :
    hasKind (s.latch k).alarms.latched j = (hasKind s.alarms.latched j || decide (j = k)) := by
  unfold State.latch
  split
  · rename_i h
    by_cases hj : j = k
    · subst hj; simp [h]
    · simp [hj]
  · simp [hasKind_mask]

theorem State.latch_onlyAlarms (k : AlarmKind) (s : State) : s.onlyAlarms (s.latch k) := by
  refine ⟨?_, ?_, fun j h => by rw [State.latch_latched, h]; rfl⟩
  · unfold State.latch; split <;> rfl
  · intro h; unfold State.latch; split <;> simp [h]

/-- The flag a latch sets: a kind that was not latched and is enabled in the notify mask (R159). -/
theorem State.latch_notifyPending (k : AlarmKind) (s : State) :
    (s.latch k).agent.notifyPending
      = (s.agent.notifyPending || (!hasKind s.alarms.latched k && hasKind s.tables.settings.notifyMask k)) := by
  unfold State.latch
  split
  · rename_i h; simp [h]
  · rename_i h; simp [h]

theorem State.latchAll_onlyAlarms (ks : List AlarmKind) : ∀ s : State, s.onlyAlarms (s.latchAll ks) := by
  induction ks with
  | nil => exact State.onlyAlarms_refl
  | cons k ks ih => intro s; exact State.onlyAlarms_trans (State.latch_onlyAlarms k s) (ih (s.latch k))

theorem State.latchAll_holding (ks : List AlarmKind) :
    ∀ s : State, (s.latchAll ks).alarms.holding = s.alarms.holding := by
  induction ks with
  | nil => intro s; rfl
  | cons k ks ih => intro s; exact (ih (s.latch k)).trans (State.latch_holding k s)

/-- Several latches set exactly their own kinds. -/
theorem State.latchAll_latched (ks : List AlarmKind) (j : AlarmKind) :
    ∀ s : State, hasKind (s.latchAll ks).alarms.latched j = (hasKind s.alarms.latched j || decide (j ∈ ks)) := by
  induction ks with
  | nil => intro s; simp [State.latchAll]
  | cons k ks ih =>
    intro s
    refine (ih (s.latch k)).trans ?_
    rw [State.latch_latched, Bool.or_assoc]
    congr 1
    by_cases hj : j = k <;> simp [hj]

/-! ## Reporting conditions -/

/-- A report writes the copy of its own condition and no other. -/
theorem State.report_holding (k j : AlarmKind) (b : Bool) (s : State) :
    hasKind (s.report k b).alarms.holding j = if j = k then b else hasKind s.alarms.holding j := by
  unfold State.report
  cases b
  · simp only [Bool.false_eq_true, if_false, hasKind_and, hasKind_not, hasKind_mask]
    by_cases hj : j = k <;> simp [hj]
  · simp only [if_true]
    split
    · rename_i h
      by_cases hj : j = k
      · subst hj; simp [h]
      · simp [hj]
    · simp only [State.latch_holding, hasKind_or, hasKind_mask]
      by_cases hj : j = k <;> simp [hj]

/-- A condition that becomes true latches its kind; nothing is unlatched (R180). -/
theorem State.report_latched (k j : AlarmKind) (b : Bool) (s : State) :
    hasKind (s.report k b).alarms.latched j
      = (hasKind s.alarms.latched j || (b && !hasKind s.alarms.holding k && decide (j = k))) := by
  unfold State.report
  cases b
  · simp
  · simp only [if_true]
    split
    · rename_i h; simp [h]
    · rename_i h
      rw [State.latch_latched]
      simp [h]

theorem State.report_onlyAlarms (k : AlarmKind) (b : Bool) (s : State) : s.onlyAlarms (s.report k b) := by
  refine ⟨?_, ?_, fun j h => by rw [State.report_latched, h]; rfl⟩
  · unfold State.report
    split
    · split
      · rfl
      · exact (State.latch_onlyAlarms k _).1
    · rfl
  · intro h
    unfold State.report
    split
    · split
      · exact h
      · exact (State.latch_onlyAlarms k _).2.1 h
    · exact h

theorem State.reportFlows_onlyAlarms (s : State) : s.onlyAlarms s.reportFlows :=
  State.onlyAlarms_trans (State.report_onlyAlarms _ _ s) (State.report_onlyAlarms _ _ _)

/-- The two flow conditions as reported: each holds exactly when some flow meets its terms; the other copies stand
(R64, R65). -/
theorem State.reportFlows_holding (j : AlarmKind) (s : State) :
    hasKind s.reportFlows.alarms.holding j
      = if j = .flowSilent then (List.finRange 128).any (fun n => (s.flow n).silent)
        else if j = .flowUnprotected then (List.finRange 128).any (fun n => (s.flow n).unprotected (s.entry n))
        else hasKind s.alarms.holding j := by
  unfold State.reportFlows
  rw [State.report_holding, State.report_holding]

end Sys2Proof.Machine
end

