-- ==== Sys2Proof/Laws/Flows.lean ====
section
/-! SUPPORT. Reading back what the flow and ring operations write, what a flow that settles may change, what going over
every flow does to each, and the lookup of a label. -/

namespace Sys2Proof.Machine

open Sys2Proof

/-! ## Contexts by index -/

theorem State.flow_of_flows {s t : State} (h : t.flows = s.flows) (n : Index) : t.flow n = s.flow n := by
  unfold State.flow; rw [h]

theorem State.flow_setFlow_self {s : State} (h : s.flows.length = 128) (n : Index) (c : Ctx) :
    (s.setFlow n c).flow n = c := by
  have : n.val < s.flows.length := by rw [h]; exact n.isLt
  simp [State.flow, List.getD_eq_getElem?_getD, this]

theorem State.flow_setFlow_ne {n k : Index} (h : k ≠ n) (c : Ctx) (s : State) :
    (s.setFlow n c).flow k = s.flow k := by
  have : n.val ≠ k.val := fun e => h (Fin.ext e.symm)
  simp [State.flow, List.getD_eq_getElem?_getD, List.getElem?_set_ne this]

theorem State.setFlow_flows_length (n : Index) (c : Ctx) (s : State) :
    (s.setFlow n c).flows.length = s.flows.length := by simp

/-- Writing back the context that is there changes nothing. -/
theorem State.setFlow_same (n : Index) (s : State) : s.setFlow n (s.flow n) = s := by
  have : s.flows.set n.val (s.flow n) = s.flows := by
    unfold State.flow
    by_cases h : n.val < s.flows.length
    · rw [List.getD_eq_getElem _ _ h, List.set_getElem_self]
    · exact List.set_eq_of_length_le (Nat.le_of_not_lt h)
  show { s with flows := s.flows.set n.val (s.flow n) } = s
  rw [this]

/-- Two lists of contexts of the right length agree when they agree at every index. -/
theorem flows_ext {s t : State} (hs : s.flows.length = 128) (ht : t.flows.length = 128)
    (h : ∀ n : Index, t.flow n = s.flow n) : t.flows = s.flows := by
  apply List.ext_getElem (ht.trans hs.symm)
  intro i h1 h2
  have := h ⟨i, hs ▸ h2⟩
  simpa [State.flow, List.getD_eq_getElem?_getD, h1, h2] using this

/-! ## Rings by class -/

theorem State.ring_setRing_self {s : State} (h : s.sched.rings.length = 8) (k : Fin 8) (r : List Index) :
    (s.setRing k r).ring k = r := by
  have : k.val < s.sched.rings.length := by rw [h]; exact k.isLt
  simp [State.ring, List.getD_eq_getElem?_getD, this]

theorem State.ring_setRing_ne {j k : Fin 8} (h : j ≠ k) (r : List Index) (s : State) :
    (s.setRing k r).ring j = s.ring j := by
  have : k.val ≠ j.val := fun e => h (Fin.ext e.symm)
  simp [State.ring, List.getD_eq_getElem?_getD, List.getElem?_set_ne this]

theorem State.ring_of_sched {s t : State} (h : t.sched.rings = s.sched.rings) (k : Fin 8) : t.ring k = s.ring k := by
  unfold State.ring; rw [h]

@[simp] theorem State.setFlow_ring (n : Index) (c : Ctx) (s : State) (k : Fin 8) :
    (s.setFlow n c).ring k = s.ring k := rfl

@[simp] theorem State.setRing_flow (k : Fin 8) (r : List Index) (s : State) (n : Index) :
    (s.setRing k r).flow n = s.flow n := rfl

@[simp] theorem State.joinRing_flow (k : Fin 8) (m : Index) (s : State) (n : Index) :
    (s.joinRing k m).flow n = s.flow n := rfl

@[simp] theorem State.leaveRing_flow (k : Fin 8) (m : Index) (s : State) (n : Index) :
    (s.leaveRing k m).flow n = s.flow n := rfl

/-! ## A flow written with its ring -/

theorem State.putFlow_flows (n : Index) (c : Ctx) (s : State) : (s.putFlow n c).flows = s.flows.set n.val c := by
  unfold State.putFlow; split <;> rfl

theorem State.flow_putFlow_self {s : State} (h : s.flows.length = 128) (n : Index) (c : Ctx) :
    (s.putFlow n c).flow n = c := by
  rw [State.flow_of_flows (s := s.setFlow n c) (State.putFlow_flows n c s)]
  exact State.flow_setFlow_self h n c

theorem State.flow_putFlow_ne {n k : Index} (h : k ≠ n) (c : Ctx) (s : State) : (s.putFlow n c).flow k = s.flow k := by
  rw [State.flow_of_flows (s := s.setFlow n c) (State.putFlow_flows n c s)]
  exact State.flow_setFlow_ne h c s

/-- Only the ring of the context's own class can gain a member: the flow, when its queue turns non-empty (R84). -/
theorem State.ring_putFlow {s : State} (h : s.sched.rings.length = 8) (n : Index) (c : Ctx) (k : Fin 8) :
    (s.putFlow n c).ring k
      = if k = c.servingClass ∧ (s.flow n).queue = [] ∧ c.queue ≠ [] then s.ring k ++ [n] else s.ring k := by
  unfold State.putFlow
  by_cases hq : (s.flow n).queue = [] ∧ c.queue ≠ []
  · have : ((s.flow n).queue.isEmpty && !c.queue.isEmpty) = true := by simp [hq.1, hq.2]
    rw [if_pos this]
    unfold State.joinRing
    by_cases hk : k = c.servingClass
    · subst hk
      rw [if_pos ⟨rfl, hq⟩, State.ring_setRing_self (by simpa using h)]; rfl
    · rw [if_neg (fun e => hk e.1), State.ring_setRing_ne hk]; rfl
  · have : ((s.flow n).queue.isEmpty && !c.queue.isEmpty) = false := by
      simp only [Bool.and_eq_false_iff, List.isEmpty_eq_false_iff, Bool.not_eq_false', List.isEmpty_iff]
      by_cases h1 : (s.flow n).queue = []
      · exact .inr (Classical.byContradiction fun h2 => hq ⟨h1, h2⟩)
      · exact .inl h1
    rw [if_neg (by simp [this]), if_neg (fun e => hq e.2)]; rfl

theorem State.ring_putFlow_ne {n : Index} {c : Ctx} {k : Fin 8} (h : k ≠ c.servingClass) (s : State) :
    (s.putFlow n c).ring k = s.ring k := by
  unfold State.putFlow
  split
  · unfold State.joinRing; rw [State.ring_setRing_ne h]; rfl
  · rfl

@[simp] theorem State.putFlow_sched (n : Index) (c : Ctx) (s : State) :
    (s.putFlow n c).sched.position = s.sched.position ∧ (s.putFlow n c).sched.slotUsed = s.sched.slotUsed ∧
      (s.putFlow n c).sched.rings.length = s.sched.rings.length := by
  unfold State.putFlow; split <;> simp [State.joinRing]

/-! ## A flow that settles -/

/-- The context a flow settles to, and whether it gave up numbers. -/
theorem State.settleFlow_eq (n : Index) (c : Ctx) (s : State) :
    s.settleFlow n c =
      (if (Ctx.settle (s.entry n) s.timeBase c).2 = true then
        (s.putFlow n (Ctx.settle (s.entry n) s.timeBase c).1).latch .loss
      else s.putFlow n (Ctx.settle (s.entry n) s.timeBase c).1) := rfl

theorem State.settleFlow_onlyAlarms (n : Index) (c : Ctx) (s : State) :
    State.onlyAlarms (s.putFlow n (Ctx.settle (s.entry n) s.timeBase c).1) (s.settleFlow n c) := by
  rw [State.settleFlow_eq]
  split
  · exact State.latch_onlyAlarms _ _
  · exact State.onlyAlarms_refl _

theorem State.settleFlow_flows (n : Index) (c : Ctx) (s : State) :
    (s.settleFlow n c).flows = s.flows.set n.val (Ctx.settle (s.entry n) s.timeBase c).1 := by
  rw [State.settleFlow_eq]
  split <;> simp [State.putFlow_flows]

theorem State.settleFlow_sched (n : Index) (c : Ctx) (s : State) :
    (s.settleFlow n c).sched = (s.putFlow n (Ctx.settle (s.entry n) s.timeBase c).1).sched := by
  rw [State.settleFlow_eq]
  split <;> simp

theorem State.flow_settleFlow_self {s : State} (h : s.flows.length = 128) (n : Index) (c : Ctx) :
    (s.settleFlow n c).flow n = (Ctx.settle (s.entry n) s.timeBase c).1 := by
  rw [State.flow_of_flows (s := s.setFlow n _) (State.settleFlow_flows n c s)]
  exact State.flow_setFlow_self h n _

theorem State.flow_settleFlow_ne {n k : Index} (h : k ≠ n) (c : Ctx) (s : State) :
    (s.settleFlow n c).flow k = s.flow k := by
  rw [State.flow_of_flows (s := s.setFlow n _) (State.settleFlow_flows n c s)]
  exact State.flow_setFlow_ne h _ s

theorem State.settleFlow_flows_length (n : Index) (c : Ctx) (s : State) :
    (s.settleFlow n c).flows.length = s.flows.length := by
  rw [State.settleFlow_flows]; simp

theorem State.settleFlow_entry (n : Index) (c : Ctx) (s : State) (k : Index) :
    (s.settleFlow n c).entry k = s.entry k := by
  simp [State.entry]

/-! ## Going over every flow -/

/-- What every change of one flow keeps, going over all of them keeps. -/
theorem State.forFlows_induct {P : State → Prop} {f : Index → State → State} (h : ∀ n t, P t → P (f n t)) :
    ∀ s : State, P s → P (s.forFlows f) := by
  intro s
  unfold State.forFlows
  generalize List.finRange 128 = l
  induction l generalizing s with
  | nil => exact id
  | cons n l ih => intro hs; exact ih (f n s) (h n s hs)

/-- Going over every flow, each index's own change reaches its context from where it stood: `I` is what the changes keep
and they need, `g n` what the change of index `n` leaves of the context it found. -/
theorem State.forFlows_each {I : State → Prop} {f : Index → State → State} {g : Index → Ctx → Ctx}
    (hI : ∀ n t, I t → I (f n t)) (hself : ∀ n t, I t → (f n t).flow n = g n (t.flow n))
    (hne : ∀ n k t, I t → k ≠ n → (f n t).flow k = t.flow k) (s : State) (hs : I s) (n : Index) :
    (s.forFlows f).flow n = g n (s.flow n) := by
  have key : ∀ (l : List Index) (t : State), l.Nodup → I t →
      (l.foldl (fun t k => f k t) t).flow n = if n ∈ l then g n (t.flow n) else t.flow n := by
    intro l
    induction l with
    | nil => intro t _ _; simp
    | cons k l ih =>
      intro t hd ht
      have hk := List.nodup_cons.mp hd
      rw [List.foldl_cons, ih (f k t) hk.2 (hI k t ht)]
      by_cases hn : n = k
      · subst hn
        rw [if_neg hk.1, if_pos (List.mem_cons_self), hself n t ht]
      · by_cases hm : n ∈ l
        · rw [if_pos hm, if_pos (List.mem_cons_of_mem _ hm), hne k n t ht hn]
        · rw [if_neg hm, if_neg (by simp [hn, hm]), hne k n t ht hn]
  have := key (List.finRange 128) s (List.nodup_finRange 128) hs
  rw [if_pos (List.mem_finRange n)] at this
  exact this

/-! ## The lookup of a label -/

theorem Bank.lookup_none {bank : Bank} {label : Label}
    (h : ∀ n : Index, (bank.entry n).valid = true → (bank.entry n).inLabel ≠ label) : bank.lookup label = none := by
  unfold Bank.lookup
  rw [List.find?_eq_none]
  intro n _
  simp only [Bool.and_eq_true, beq_iff_eq, not_and]
  exact h n

/-- In a sound bank the valid entry that carries a label is the one the lookup finds (R8, R13). -/
theorem Bank.lookup_sound {bank : Bank} {label : Label} {n : Index} (hb : bank.sound)
    (hv : (bank.entry n).valid = true) (hl : (bank.entry n).inLabel = label) : bank.lookup label = some n := by
  unfold Bank.lookup
  cases h : List.find? (fun n => (bank.entry n).valid && (bank.entry n).inLabel == label) (List.finRange 128) with
  | none =>
    rw [List.find?_eq_none] at h
    have := h n (List.mem_finRange n)
    simp [hv, hl] at this
  | some m =>
    have hm := List.find?_some h
    simp only [Bool.and_eq_true, beq_iff_eq] at hm
    rw [hb.1 m n hm.1 hv (hm.2.trans hl.symm)]

/-- What a lookup finds is a valid entry that carries the label. -/
theorem Bank.lookup_some {bank : Bank} {label : Label} {n : Index} (h : bank.lookup label = some n) :
    (bank.entry n).valid = true ∧ (bank.entry n).inLabel = label := by
  have hm := List.find?_some h
  simpa using hm

end Sys2Proof.Machine
end

