-- ==== Sys2Proof/Laws/Links.lean ====
section
/-! SUPPORT. The bytes of a header and of a whole cell, and what the search of HUNT can answer (R114). -/

namespace Sys2Proof.Machine

open Sys2Proof

theorem lastBytes_of_length_le {n : Nat} {bytes : List Byte} (h : bytes.length ≤ n) : lastBytes n bytes = bytes := by
  simp [lastBytes, Nat.sub_eq_zero_of_le h]

theorem lastBytes_length (n : Nat) (bytes : List Byte) : (lastBytes n bytes).length = min n bytes.length := by
  simp [lastBytes]; omega

/-- Of a longer list the last bytes are those of its tail. -/
theorem lastBytes_drop {n k : Nat} {bytes : List Byte} (h : k + n ≤ bytes.length) :
    lastBytes n (bytes.drop k) = lastBytes n bytes := by
  simp only [lastBytes, List.drop_drop, List.length_drop]; congr 1; omega

@[simp] theorem afterFailing_length (header : BitVec 48) : (afterFailing header).length = 5 := by
  simp [afterFailing, wireBytes, beBytes]

/-- Four bytes in a row as one number, the first the most significant (chapter 12). -/
theorem toNat_append_bytes (b0 b1 b2 b3 : Byte) :
    (b0 ++ b1 ++ b2 ++ b3 : BitVec (8 + 8 + 8 + 8)).toNat
      = ((b0.toNat * 256 + b1.toNat) * 256 + b2.toNat) * 256 + b3.toNat := by
  rw [BitVec.toNat_append, BitVec.toNat_append, BitVec.toNat_append, ← Nat.shiftLeft_add_eq_or_of_lt b3.isLt,
    ← Nat.shiftLeft_add_eq_or_of_lt b2.isLt, ← Nat.shiftLeft_add_eq_or_of_lt b1.isLt]
  simp only [Nat.shiftLeft_eq, Nat.reducePow]

/-- A payload check comes through bytes 60 to 63 unchanged (R202). -/
@[simp] theorem checkOf_checkBytes (check : Check) : checkOf (checkBytes check) = check := by
  apply BitVec.eq_of_toNat_eq
  have h := check.isLt
  refine (toNat_append_bytes _ _ _ _).trans ?_
  simp [checkBytes, Config.checkBytes, beBytes, byteAt, Nat.shiftRight_eq_div_pow]
  omega

/-- Any four bytes are those of the check they carry (R202): `checkBytes` reaches every end a cell can have. -/
@[simp] theorem checkBytes_checkOf (b0 b1 b2 b3 : Byte) : checkBytes (checkOf [b0, b1, b2, b3]) = [b0, b1, b2, b3] := by
  have h0 := b0.isLt; have h1 := b1.isLt; have h2 := b2.isLt; have h3 := b3.isLt
  have h : (checkOf [b0, b1, b2, b3]).toNat = ((b0.toNat * 256 + b1.toNat) * 256 + b2.toNat) * 256 + b3.toNat :=
    toNat_append_bytes b0 b1 b2 b3
  simp only [checkBytes, Config.checkBytes, beBytes, h, Nat.shiftRight_eq_div_pow, List.cons.injEq, and_true]
  refine ⟨?_, ?_, ?_, ?_⟩ <;> apply BitVec.eq_of_toNat_eq <;>
    simp only [BitVec.toNat_ofNat, Nat.reducePow, Nat.reduceMul] <;> omega

/-- A cell of 54 payload bytes is 64 bytes on its line (section 12.1). -/
theorem Cell.wire_length {c : Cell} (h : c.payload.length = Config.payloadBytes) : c.wire.length = Config.cellBytes := by
  simp [Cell.wire, headerBytes, checkBytes, Config.checkBytes, Config.cellBytes, beBytes, h, Config.payloadBytes]

/-- The candidate that starts at byte `i` of a stream. -/
def candidateAt (stream : List Byte) (i : Nat) : BitVec 48 := headerOf ((stream.drop i).take 6)

/-- What the search answers: `none` exactly when some six bytes in a row of the stream pass, and else its last five bytes
(R114). -/
theorem huntBytes_cases : ∀ (bytes recent : List Byte), recent.length ≤ 5 →
    (huntBytes recent bytes = none ∧ ∃ i, i + 6 ≤ (recent ++ bytes).length ∧
        headerPasses (candidateAt (recent ++ bytes) i) = true) ∨
    (huntBytes recent bytes = some (lastBytes 5 (recent ++ bytes)) ∧
      ∀ i, i + 6 ≤ (recent ++ bytes).length → headerPasses (candidateAt (recent ++ bytes) i) = false)
  | [], recent, h => by
    refine .inr ⟨?_, ?_⟩
    · simp [huntBytes, lastBytes_of_length_le h]
    · intro i hi; simp only [List.append_nil] at hi; omega
  | b :: rest, recent, h => by
    have hs : recent ++ b :: rest = (recent ++ [b]) ++ rest := by simp
    have hl : (recent ++ [b]).length ≤ 6 := by simp; omega
    unfold huntBytes
    simp only [Config.headerBytes, lastBytes_of_length_le hl, Nat.reduceSub]
    by_cases hw : (recent ++ [b]).length = 6
    · by_cases hp : headerPasses (headerOf (recent ++ [b])) = true
      · refine .inl ⟨if_pos ⟨hw, hp⟩, 0, by rw [hs, List.length_append]; omega, ?_⟩
        rw [hs]; unfold candidateAt
        rw [List.drop_zero, List.take_append_of_le_length (by omega), List.take_of_length_le (by omega)]
        exact hp
      · rw [if_neg (fun e => hp e.2)]
        have hd : lastBytes 5 (recent ++ [b]) ++ rest = (recent ++ b :: rest).drop 1 := by
          rw [hs, lastBytes, hw]; exact (List.drop_append_of_le_length (by omega)).symm
        have hc : ∀ i, candidateAt ((recent ++ b :: rest).drop 1) i = candidateAt (recent ++ b :: rest) (i + 1) := by
          intro i; simp [candidateAt]
        have hlen : ((recent ++ b :: rest).drop 1).length + 1 = (recent ++ b :: rest).length := by
          rw [List.length_drop, List.length_append, List.length_cons]; omega
        rcases huntBytes_cases rest (lastBytes 5 (recent ++ [b])) (by rw [lastBytes_length]; omega) with
          ⟨h1, i, hi, hq⟩ | ⟨h1, h2⟩ <;> rw [hd] at *
        · exact .inl ⟨h1, i + 1, by omega, by rw [← hc]; exact hq⟩
        · refine .inr ⟨?_, ?_⟩
          · rw [h1, lastBytes_drop (by rw [hs, List.length_append]; omega)]
          · intro i hi
            rcases i with - | i
            · have : candidateAt (recent ++ b :: rest) 0 = headerOf (recent ++ [b]) := by
                unfold candidateAt
                rw [hs, List.drop_zero, List.take_append_of_le_length (by omega), List.take_of_length_le (by omega)]
              rw [this]; simpa using hp
            · rw [← hc]; exact h2 i (by omega)
    · rw [if_neg (fun e => hw e.1)]
      have h5 : (recent ++ [b]).length ≤ 5 := by omega
      rw [lastBytes_of_length_le h5, hs]
      exact huntBytes_cases rest (recent ++ [b]) h5

end Sys2Proof.Machine
end

