-- ==== Sys2Proof/WellFormed.lean ====
section
/-! DEFINITION. Which operands a command of the table may carry. The operands of the other commands are well formed by
their types. -/

namespace Sys2Proof

/-- A command carries exactly the 49 argument bytes of a management payload (section 12.2). -/
def argsOk (args : List Byte) : Bool := args.length == Config.argBytes

/-- A cell ends with exactly 54 payload bytes and four check bytes (section 12.1). -/
def cellEndOk (payload check : List Byte) : Bool :=
  payload.length == Config.payloadBytes && check.length == Config.checkBytes

/-- The operands are those the row names: at least one byte in HUNT, a whole cell's end, 49 argument bytes, a RESTART kind
of the row's own sort, a code that names no command for BAD_COMMAND (R114, R162, R171, R172, sections 12.1 and 12.2). -/
def Instr.wellFormed : Instr → Bool
  | .huntCandidatePasses _ bytes _ => !bytes.isEmpty
  | .signalLost loss _ => loss.last.all (fun b => cellEndOk b.1 b.2)
  | .cellLastByte _ payload check _ => cellEndOk payload check
  | .echo _ _ args => argsOk args
  | .getStatus _ _ args => argsOk args
  | .getEntry _ _ args => argsOk args
  | .putEntry _ _ args => argsOk args
  | .getSlots _ _ args => argsOk args
  | .putSlots _ _ args => argsOk args
  | .putCalHeader _ _ args => argsOk args
  | .commit _ _ args => argsOk args
  | .abandon _ _ args => argsOk args
  | .getCounters _ _ args => argsOk args
  | .getDeviceCounters _ _ args => argsOk args
  | .getAlarms _ _ args => argsOk args
  | .clearAlarms _ _ args => argsOk args
  | .getSettings _ _ args => argsOk args
  | .putSettings _ _ args => argsOk args
  | .getStrays _ _ args => argsOk args
  | .clearStrays _ _ args => argsOk args
  | .resetFlow _ _ args => argsOk args
  | .save _ _ args => argsOk args
  | .load _ _ args => argsOk args
  | .restartFull _ _ rest => argsOk (Machine.restartFullKind :: rest)
  | .restartTraffic _ _ kind rest => argsOk (kind :: rest) && kind != Machine.restartFullKind
  | .badCommand _ _ code args => argsOk args && !Machine.commandCodes.contains code
  | .powerUp => true
  | .resetNLow => true
  | .resetRelease _ => true
  | .loadInstant _ => true
  | .signalDetected _ _ => true
  | .headerAtBoundary _ _ _ => true
  | .seedingDeadline _ _ => true
  | .gapExpiry _ _ => true
  | .presenceExpiry _ _ _ => true
  | .roundBoundary _ => true
  | .outCellTimeStart _ => true
  | .returnCellTime _ _ => true
  | .notify => true
  | .saveWriteEnd _ _ => true

end Sys2Proof
end

