-- ==== Sys2Proof/Tests/Slice0.lean ====
section
/-! SUPPORT. Tests: the operands WellFormed refuses, checks and worked values of spec/, single steps, and for every
statement with hypotheses a state and operands that meet them, at the ends of their ranges. -/

namespace Sys2Proof.Tests

-- One test after another: each evaluates whole states, and all at once they outgrow the memory of a check.
set_option Elab.async false

open Sys2Proof Sys2Proof.Machine

/-! ## WellFormed refuses -/

theorem test_wellFormed_shortPayload : (Instr.cellLastByte .a (List.replicate 53 0) [0, 0, 0, 0] 0).wellFormed = false ∧
    (Instr.cellLastByte .a (List.replicate 54 0) [0, 0, 0] 0).wellFormed = false := by decide
theorem test_wellFormed_longArgs : (Instr.getStatus 0 0 (List.replicate 50 0)).wellFormed = false := by decide
theorem test_wellFormed_shortRest : (Instr.restartFull 0 0 (List.replicate 47 0)).wellFormed = false := by decide
theorem test_wellFormed_trafficNamedFull :
    (Instr.restartTraffic 0 0 0xF1 (List.replicate 48 0)).wellFormed = false := by decide
theorem test_wellFormed_badCommandNamesEcho :
    (Instr.badCommand 0 0 0x01 (List.replicate 49 0)).wellFormed = false := by decide
theorem test_wellFormed_shortLastByte :
    (Instr.signalLost ⟨.a, some (List.replicate 53 0, [0, 0, 0, 0])⟩ 0).wellFormed = false ∧
    (Instr.signalLost ⟨.a, none⟩ 0).wellFormed = true := by decide
theorem test_wellFormed_noBytes : (Instr.huntCandidatePasses .a [] 0).wellFormed = false := by decide
theorem test_wellFormed_accepts :
    (Instr.huntCandidatePasses .a [0] 0).wellFormed = true ∧
    (Instr.badCommand 0 0 0x7F (List.replicate 49 0)).wellFormed = true ∧
    (Instr.restartTraffic 0 0 0xF0 (List.replicate 48 0)).wellFormed = true ∧
    (Instr.cellLastByte .a (List.replicate 54 0) [0, 0, 0, 0] 0).wellFormed = true := by decide

/-! ## Checks and numbers -/

/-- R202: the idle cell's header bytes 8F 00 00 00 00 have the header check A7. -/
theorem test_idleHeaderCheck : headerCheckOf [0x8F, 0, 0, 0, 0] = 0xA7 := by decide +kernel

/-- R94, R202, section 12.1: the idle cell's 64 bytes end with its payload check, most significant byte first. -/
theorem test_idleCellOnTheLine :
    idleCell.wire = [0x8F, 0, 0, 0, 0, 0xA7] ++ List.replicate 54 0 ++ [0xBF, 0xB6, 0xC5, 0xAC] := by decide +kernel

/-- The published check values of the two generators over the ASCII digits 1 to 9. -/
theorem test_publishedChecks :
    headerCheckOf [0x31, 0x32, 0x33, 0x34, 0x35, 0x36, 0x37, 0x38, 0x39] = 0xF4 ∧
    payloadCheckOf [0x31, 0x32, 0x33, 0x34, 0x35, 0x36, 0x37, 0x38, 0x39] = 0xFC891918 := by decide +kernel

/-- 00_scope.md: with NES at 65,530, 3 is 9 ahead and 65,520 is 10 behind. -/
theorem test_distances : seqDist 65530 3 = 9 ∧ 65536 - seqDist 65530 65520 = 10 := by decide

/-- R188: generation 0 is newer than 4,294,967,295. -/
theorem test_generationWraps : newerGeneration 0 4294967295 = true ∧ newerGeneration 4294967295 0 = false := by decide

/-! ## States the tests share -/

/-- The part at work right after a start from an empty store, but for the alarms. -/
def atWork : State := { State.reset with phase := .active }

/-- Argument bytes, zero behind those given. -/
def argsOf (bytes : List Byte) : List Byte := bytes ++ List.replicate (49 - bytes.length) 0

/-- 54 payload bytes of zeros, and their check by R202's generator (worked outside the model). -/
def zeros : List Byte := List.replicate 54 0
def zerosCheck : Check := 0xBFB6C5AC

/-- The same check as bytes 60 to 63 of the cell, most significant byte first (R202). -/
def zerosBytes : List Byte := [0xBF, 0xB6, 0xC5, 0xAC]

/-- The sixteen bytes of `entryX` (section 12.3). -/
def entryBytes : List Byte := [1, 0, 100, 0, 200, 0, 0, 0, 10, 0, 5, 0, 4, 2, 1, 1]

def entryX : Entry :=
  { valid := true, inLabel := 100, outLabel := 200, policy := .both, window := .w16, hold := 10, loneHold := 5,
    quota := 4, cls := 2, renumber := true, restamp := true }

def bankX : Bank :=
  { entries := entryX :: List.replicate 127 Entry.default
    calendar := { length := 2, lend := true, slots := .cls 1 :: .cls 2 :: List.replicate 126 .idle } }

/-- Entry 0 is `entryX` and its context is `c`; the Calendar has length 2. -/
def oneFlow (c : Ctx) : State :=
  { atWork with
    tables := { atWork.tables with active := bankX, pendingBank := bankX }
    flows := c :: List.replicate 127 (Ctx.fresh .none 0) }

/-- Receiver A in UP with the DATA cell of label 100 and number 7 in reception. -/
def receiving (label : Label) : Receiver :=
  { state := .up, boundary := some 64, passCount := 6, failCount := 0, recent := [],
    reception := some { kind := .data, label := label, seq := 7, check := 0x68 }, signal := true }

def upReceiver (fails : Nat) : Receiver :=
  { state := .up, boundary := some 64, passCount := 6, failCount := fails, recent := [], reception := none,
    signal := true }
def checkReceiver (passes : Nat) : Receiver :=
  { state := .check, boundary := some 64, passCount := passes, failCount := 0, recent := [], reception := none,
    signal := true }

/-- A receiver in HUNT that received these bytes last. -/
def huntReceiver (recent : List Byte) : Receiver :=
  { state := .hunt, boundary := none, passCount := 0, failCount := 0, recent := recent, reception := none, signal := true }

def unseeded : Ctx := Ctx.fresh .unseeded 2
def running : Ctx := { Ctx.fresh .running 2 with nes := 7 }

/-- A buffer of label 100 with the given number and stamp, arrived on path A. -/
def bufferAt (seq : Seq) (stamp : Time) : Buffer :=
  { cell := { kind := .data, label := 100, seq := seq, headerCheck := 0, payload := zeros, payloadCheck := zerosCheck }
    path := .a
    stamp := stamp }

def heldAt (seq : Seq) (stamp : Time) : HeldRec := { buffer := bufferAt seq stamp, otherSeen := false }

/-- The next state of a step, if it has one. -/
def after (i : Instr) (s : State) : Option State :=
  match exec i s with
  | .next t => some t
  | .fault _ => none
  | .refused _ => none

/-! ## Single steps -/

/-- R27 and 2.4's shape: the first cell of a window of 16 seeds the flow at its number minus 8; its seeding deadline
follows the lone hold of 5 microseconds. -/
theorem test_firstCellSeeds :
    ((after (.cellLastByte .a zeros zerosBytes 100) { oneFlow unseeded with rxA := receiving 100 }).map fun t =>
      ((t.flow 0).nes, (t.flow 0).seedingDeadline, t.pool.free)) = some (65535, some 600, 2047) := by decide +kernel

/-- R202: check bytes 60 to 63 in the other byte order fail, and the cell is discarded as a payload error. -/
theorem test_checkBytesInTheOtherOrderFail :
    ((after (.cellLastByte .a zeros [0xAC, 0xC5, 0xB6, 0xBF] 0) { oneFlow running with rxA := receiving 100 }).map fun t =>
      ((t.device.path .a).payloadErrors, (t.flow 0).nes)) = some (1, 7) := by decide +kernel

/-- R121: a loss of signal cuts the cell in reception. R51: a cell whose last byte was taken first is judged behind the loss
and marks nothing. -/
theorem test_lossCutsOrFollowsTheLastByte :
    ((after (.signalLost ⟨.a, none⟩ 10) { oneFlow running with rxA := receiving 100 }).map fun t =>
      (t.rxA.state, (t.device.path .a).cellsCut, (t.flow 0).nes)) = some (.down, 1, 7) ∧
    ((after (.signalLost ⟨.a, some (zeros, zerosBytes)⟩ 10) { oneFlow running with rxA := receiving 100 }).map fun t =>
      (t.rxA.state, (t.device.path .a).cellsCut, (t.flow 0).nes, (t.flow 0).presA.present))
      = some (.down, 0, 8, false) := by decide +kernel

/-- R32, R39, R41, R84: a cell at NES joins the queue under the out-label and the renumber counter, and the flow its
class ring. -/
theorem test_cellAtNesIsQueued :
    ((after (.cellLastByte .a zeros zerosBytes 0) { oneFlow running with rxA := receiving 100 }).map fun t =>
      ((t.flow 0).nes, (t.flow 0).queue.map fun b => (b.cell.label, b.cell.seq))) = some (8, [(200, 0)]) ∧
    ((after (.cellLastByte .a zeros zerosBytes 0) { oneFlow running with rxA := receiving 100 }).map fun t =>
      t.ring 2) = some [0] := by decide +kernel

/-- R59, R41: an expired gap of 3 numbers counts 3 LOST and the renumber counter advances by the one cell sent. -/
theorem test_gapGivesUpThree :
    ((after (.gapExpiry (.flow 0) 500)
        (oneFlow { running with held := [heldAt 10 0], gapDeadline := some 500 })).map fun t =>
      ((t.flow 0).counters.lost, (t.flow 0).nes, (t.flow 0).renumber)) = some (3, 11, 1) := by decide +kernel

/-- R114: the idle cell's header is found one byte into the stream, across two steps; the failing header of a receiver in
CHECK leaves its last five bytes for the next candidate. -/
theorem test_huntFindsAcrossSteps :
    (((after (.huntCandidatePasses .a [0x8F, 0, 0] 0) { atWork with rxA := huntReceiver [1] }).bind
        (after (.huntCandidatePasses .a [0, 0, 0xA7, 9] 0))).map fun t =>
      (t.rxA.state, t.rxA.boundary, t.rxA.passCount, t.rxA.recent)) = some (.check, some 64, 1, []) ∧
    ((after (.headerAtBoundary .a 0x018F00000000 0) { atWork with rxA := checkReceiver 3 }).map fun t =>
      (t.rxA.state, t.rxA.recent)) = some (.hunt, [0x8F, 0, 0, 0, 0]) := by decide +kernel

/-- R145: a new hold that leaves the lone hold applying reaches a gap due at the boundary, before the selection. -/
theorem test_commitReachesADueGap :
    ((after (.outCellTimeStart 500) { oneFlow { running with held := [heldAt 9 0], gapDeadline := some 500 } with
        tables := { active := bankX
                    pendingBank := { bankX with
                      entries := { entryX with hold := 11 } :: List.replicate 127 Entry.default
                      calendar := { bankX.calendar with slots := .cls 2 :: List.replicate 127 .idle } }
                    settings := Settings.default, commit := .outstanding 7 }
        sched := { position := 1, slotUsed := true, rings := List.replicate 8 [] }
        agent := { atWork.agent with replies := [.reserved 7 commitCode] } }).map fun t =>
      ((t.flow 0).nes, (t.flow 0).counters.lost, t.out.buffer.isSome)) = some (10, 2, true) := by decide +kernel

/-- R174: GET_COUNTERS of context M, first of a run of two released by a gap expiry, reports LOST 1 and EMITTED 2. -/
theorem test_countersSeeTheWholeRun :
    (let cell (seq : Seq) : HeldRec := { heldAt seq 0 with buffer := { bufferAt seq 0 with cell := { (bufferAt seq 0).cell with
        payload := [31, 1, 0x20, 0, 0, 128, 1] ++ List.replicate 47 0 } } }
     ((after (.gapExpiry .m 200000) { atWork with m := { running with
        servingClass := 0, held := [cell 8, cell 9], gapDeadline := some 200000 } }).map fun t =>
      t.agent.replies.head?.map fun p =>
        match p with
        | .filled r => ((r.result.drop 11).take 4, (r.result.drop 23).take 4)
        | .reserved _ _ => ([], []))) = some (some ([0, 0, 0, 1], [0, 0, 0, 2])) := by decide +kernel

/-- R107: 2,147,483,632 carried plus a residence of 100 saturates at 2,147,483,647; bytes 0 to 5 and 10 on stand. -/
theorem test_correctionSaturates :
    outPayload entryX 100 { bufferAt 0 0 with cell := { (bufferAt 0 0).cell with
        kind := .clock, payload := [1, 2, 3, 4, 5, 6, 0x7F, 0xFF, 0xFF, 0xF0] ++ List.replicate 44 9 } }
      = [1, 2, 3, 4, 5, 6, 0x7F, 0xFF, 0xFF, 0xFF] ++ List.replicate 44 9 := by decide +kernel

/-- R107: minus 100 carried plus a residence of 100 is 0. -/
theorem test_negativeCorrection :
    outPayload entryX 100 { bufferAt 0 0 with cell := { (bufferAt 0 0).cell with
        kind := .clock, payload := List.replicate 6 0 ++ [0xFF, 0xFF, 0xFF, 0x9C] ++ List.replicate 44 0 } }
      = zeros := by decide +kernel

/-- R92, R74, R85: the cell time at the last position takes class 2's flow; its queue empties and the ring with it. -/
theorem test_outServesClassTwo :
    ((after (.outCellTimeStart 0) { oneFlow { running with queue := [bufferAt 7 0] } with
        sched := { position := 0, slotUsed := true, rings := (List.replicate 8 []).set 2 [0] } }).map fun t =>
      (t.sched.position, t.out.buffer, t.ring 2, (t.flow 0).queue)) = some (1, some (bufferAt 7 0), [], []) := by
  decide +kernel

/-- R138, R142: the round boundary completes a COMMIT that invalidates entry 0, and its held cell is sent first. -/
theorem test_commitInvalidates :
    ((after (.roundBoundary 0) { oneFlow { running with held := [heldAt 9 0], gapDeadline := some 500 } with
        tables := { active := bankX, pendingBank := Bank.default, settings := Settings.default,
                    commit := .outstanding 7 }
        sched := { position := 1, slotUsed := true, rings := List.replicate 8 [] }
        agent := { atWork.agent with replies := [.reserved 7 commitCode] } }).map fun t =>
      ((t.flow 0).state, (t.flow 0).queue.length, (t.flow 0).counters.lost, t.tables.commit))
      = some (.draining, 1, 2, .none) := by decide +kernel

/-- R160, section 12.2: a notification carries code 7F, tag 0 and status OK. -/
theorem test_notificationFormed :
    ((after .notify { atWork with agent := { atWork.agent with notifyPending := true } }).map fun t =>
      t.agent.replies.map fun p =>
        match p with
        | .filled r => (r.code, r.tag, r.status, r.result.length)
        | .reserved _ _ => (0, 0, .ok, 0)) = some [(0x7F, 0, .ok, 10)] := by decide +kernel

/-- R129, section 12.2: a reply leaves as a MGMT cell of label 4095 with the REPLY and OVERRUN flags in payload byte 4. -/
theorem test_replyLeavesWithFlags :
    ((after (.returnCellTime 0 0) { atWork with
        agent := { atWork.agent with
          overrun := true
          replies := [.reserved 1 saveCode,
            .filled { source := 3, tag := 9, code := 1, status := .ok, result := [], restartsFull := false }] } }).map
      fun t => (t.ret.line.map fun bytes => (bytes.take 3, (bytes.drop 6).take 5), t.agent.replies, t.agent.overrun))
      = some (some ([0x4C, 0x9F, 0xFF], [3, 9, 1, 0, 0x82]), [.reserved 1 saveCode], false) := by decide +kernel

/-- R203, R132: sixteen entry bytes of section 12.3 read as the entry they spell; a window code of 5 spells none. -/
theorem test_entryDecodes :
    decodeEntry (argsOf (0 :: entryBytes)) 1 = some entryX ∧
    decodeEntry (argsOf (0 :: [1, 0, 100, 0, 200, 0, 5, 0, 10, 0, 5, 0, 4, 2, 1, 1])) 1 = none := by decide +kernel

/-- R182: CLEAR_ALARMS of every kind leaves the two link kinds, whose conditions hold, and clears LOSS. -/
theorem test_clearAlarmsKeepsHolding :
    ((after (.clearAlarms 0 1 (argsOf [0xFF, 0xFF])) { atWork with alarms := { latched := 0x83, holding := 3 } }).map
      fun t => t.alarms.latched) = some 3 := by decide +kernel

/-- R195, R196, R197: release and load instant after an empty store latch STORE_EMPTY and leave the default tables. -/
theorem test_startFromEmptyStore :
    (((after (.resetRelease 9) State.reset).bind (after (.loadInstant 1000))).map fun t =>
      (t.phase, t.agent.strap, t.timeBase, t.alarms.latched, t.tables.commit))
      = some (.active, 9, 1000, 0x803, .none) := by decide +kernel

/-! ## Witnesses: a state and operands for the hypotheses of every statement, clause by clause -/

def goodHeader : BitVec 48 := 0x8F00000000A7
def dataHeader : BitVec 48 := 0x1A5064000768
def imageOf (generation : Count) : Image :=
  { generation := generation, bank := bankX, settings := Settings.default, check := 0 }

/-- A store with these slots, IDLE. -/
def storeOf (slot0 slot1 : Option Image) : Store :=
  { slot0 := slot0, slot1 := slot1, state := .idle, consultations := 0 }

theorem entry_default (n : Index) : Bank.default.entry n = Entry.default := by
  revert n; decide +kernel

theorem bankX_entry (n : Index) : bankX.entry n = if n = 0 then entryX else Entry.default := by
  revert n; decide +kernel

theorem bankX_sound : bankX.sound := by
  have h : ∀ n : Index, (bankX.entry n).valid = true → n = 0 := by
    intro n hn; rw [bankX_entry] at hn; by_contra h0; rw [if_neg h0] at hn; cases hn
  refine ⟨fun i j hi hj _ => (h i hi).trans (h j hj).symm, fun i hi => ?_⟩
  rw [h i hi]; decide +kernel

theorem default_sound : Bank.default.sound := by
  refine ⟨fun i j hi => ?_, fun i hi => ?_⟩ <;> (rw [entry_default] at hi; cases hi)

theorem test_witness_StepRunsTheFrontCommand :
    ({ atWork with pending := [.notify, .powerUp] } : State).pending = Instr.notify :: [.powerUp] := rfl

theorem test_witness_EmptyQueueStepIsOneTick : atWork.pending = [] ∧ State.reset.pending = [] := ⟨rfl, rfl⟩

theorem test_witness_ResetReleaseBeginsStarting :
    State.reset.phase = .heldPower ∧ ({ State.reset with phase := .heldPin } : State).phase = .heldPin := ⟨rfl, rfl⟩

def starting (slot0 slot1 : Option Image) : State :=
  { State.reset with phase := .starting, store := storeOf slot0 slot1 }

theorem test_witness_LoadInstantLoadsTheNewestImage :
    (starting none none).phase = .starting ∧ (starting none none).store.consult.newest = none ∧
    (starting (some (imageOf 3)) (some (imageOf 4))).phase = .starting := by decide +kernel

/-- Differences 1, 2^31 − 1, 2^31 and 0, both ways round. -/
theorem test_witness_NewestImageByGeneration :
    (1 ≤ ((imageOf 0).generation - (imageOf 4294967295).generation).toNat ∧
      ((imageOf 0).generation - (imageOf 4294967295).generation).toNat ≤ 2147483647) ∧
    ((imageOf 2147483647).generation - (imageOf 0).generation).toNat = 2147483647 ∧
    ((imageOf 2147483648).generation - (imageOf 0).generation).toNat = 2147483648 ∧
    (imageOf 5).generation = (imageOf 5).generation := by decide +kernel

def arrivalState (c : Ctx) : State := { oneFlow c with rxA := receiving 100 }

/-- The header of the cell `receiving` has in reception. -/
def headerOn (label : Label) : Header := { kind := .data, label := label, seq := 7, check := 0x68 }

/-- The cell in reception, ended by `zeros`, reaches flow 0, whatever its context. -/
theorem arrival_reaches (c : Ctx) : (arrivalState c).reachesFlow .a (headerOn 100) zeros zerosCheck 0 :=
  ⟨rfl, rfl, rfl, by decide +kernel, by decide, rfl, bankX_sound, rfl, rfl, rfl⟩

theorem arrival_flow (c : Ctx) :
    (arrivalState c).flow 0 = c ∧ (arrivalState c).entry 0 = entryX ∧ (arrivalState c).timeBase = 0 := ⟨rfl, rfl, rfl⟩

/-- A receiver that is not in UP; one in UP with no cell in reception; one that ends a damaged cell, a cell at NES of a flow,
and a cell at NES of context M with the reply queue full. -/
theorem test_witness_SignalChangesTakeTheReceiver :
    ((State.reset.rx .a).state ≠ .up ∧ (({ atWork with rxA := upReceiver 0 } : State).rx .a).state = .up ∧
      (({ atWork with rxA := upReceiver 0 } : State).rx .a).reception = none) ∧
    (((arrivalState running).rx .a).state = .up ∧ ((arrivalState running).rx .a).reception = some (headerOn 100) ∧
      zeros.length = 54 ∧ payloadPasses zeros 0 = false) ∧
    ((arrivalState running).reachesFlow .a (headerOn 100) zeros zerosCheck 0 ∧
      ((arrivalState running).flow 0).state = .running ∧ ((arrivalState running).flow 0).held = [] ∧
      (headerOn 100).seq = ((arrivalState running).flow 0).nes ∧
      ((arrivalState running).flow 0).queue.length < ((arrivalState running).entry 0).quota.toNat ∧
      (arrivalState running).pool.free ≠ 0) ∧
    (let s : State := { atWork with
        rxA := { receiving managementLabel with reception := some { headerOn managementLabel with kind := .mgmt } }
        m := { running with servingClass := 0 }
        agent := { atWork.agent with replies := List.replicate 8 (.reserved 1 saveCode) } }
     s.phase = .active ∧ (s.rx .a).reception = some { headerOn managementLabel with kind := .mgmt } ∧
      payloadPasses zeros zerosCheck = true ∧ s.m.state = .running ∧ s.m.held = [] ∧ (7 : Seq) = s.m.nes ∧
      s.pool.free ≠ 0 ∧ s.m.queue = [] ∧ 8 ≤ s.agent.replies.length) :=
  ⟨by decide, by decide +kernel, ⟨arrival_reaches running, by decide +kernel⟩, by decide +kernel⟩

theorem test_witness_HuntAndCheckReachUp :
    ((({ atWork with rxA := huntReceiver [1, 0x8F, 0, 0, 0] } : State).rx .a).state = .hunt ∧
      (huntReceiver [1, 0x8F, 0, 0, 0]).recent.length ≤ 5 ∧ headerPasses goodHeader = true ∧
      1 + 6 ≤ ([1, 0x8F, 0, 0, 0] ++ [0, 0xA7] : List Byte).length ∧
      BitVec.ofNat 48 (beNat ((([1, 0x8F, 0, 0, 0] ++ [0, 0xA7] : List Byte).drop 1).take 6)) = goodHeader ∧
      (∀ i : Nat, i + 6 ≤ ([1, 2] ++ [3, 4, 5, 6] : List Byte).length →
        headerPasses (BitVec.ofNat 48 (beNat ((([1, 2] ++ [3, 4, 5, 6] : List Byte).drop i).take 6))) = false)) ∧
    ((({ atWork with rxA := checkReceiver 4 } : State).rx .a).state = .check ∧
      (({ atWork with rxA := checkReceiver 4 } : State).rx .a).passCount < 5) ∧
    ((({ atWork with rxA := checkReceiver 5 } : State).rx .a).state = .check ∧ headerPasses 0x1 = false ∧
      (({ atWork with rxA := checkReceiver 5 } : State).rx .a).passCount = 5) := by
  refine ⟨⟨rfl, by decide, by decide +kernel, by decide, by decide +kernel, ?_⟩, by decide +kernel⟩
  intro i hi
  have : i = 0 := by simp at hi; omega
  subst this; decide +kernel

theorem test_witness_HeadersJudgedInUp :
    (({ atWork with rxA := upReceiver 2 } : State).rx .a).state = .up ∧ headerPasses dataHeader = true ∧
    headerPasses 0x1A5064000769 = false ∧ (({ atWork with rxA := upReceiver 2 } : State).rx .a).failCount < 3 := by
  decide +kernel

theorem test_witness_FourthFailingHeaderLeavesUp :
    ({ atWork with rxA := upReceiver 3 } : State).phase = .active ∧
    (({ starting none none with rxA := upReceiver 3 } : State).phase = .starting ∧
      (({ starting none none with rxA := upReceiver 3 } : State).rx .a).failCount = 3) ∧
    (({ atWork with rxA := upReceiver 3 } : State).rx .a).state = .up ∧
    (({ atWork with rxA := upReceiver 3 } : State).rx .a).failCount = 3 ∧ headerPasses 0x1 = false := by
  decide +kernel

def stray (label : Label) : Stray := { label := label, firstSeen := .a, count := 1, last := 0 }
def strayState (strays : List Stray) : State := { atWork with rxA := receiving 100, strays := strays }

/-- A failing payload; a label on the list, room for one more record at 7, and a full list at 8; an excluded path. -/
theorem test_witness_CellsThatReachNoContext :
    (((strayState []).rx .a).reception = some { kind := .data, label := 100, seq := 7, check := 0x68 } ∧
      zeros.length = 54 ∧ payloadPasses zeros ((0 : Byte) ++ (0 : Byte) ++ (0 : Byte) ++ (0 : Byte)) = false) ∧
    (payloadPasses zeros ((0xBF : Byte) ++ (0xB6 : Byte) ++ (0xC5 : Byte) ++ (0xAC : Byte)) = true ∧ (100 : Label) ≠ managementLabel ∧
      ∀ n : Index, ((strayState []).entry n).valid = true → ((strayState []).entry n).inLabel ≠ 100) ∧
    (100 : Label) ∈ (strayState [stray 100]).strays.map Stray.label ∧
    ((100 : Label) ∉ (strayState ((List.range 7).map fun i => stray (BitVec.ofNat 12 i))).strays.map Stray.label ∧
      (strayState ((List.range 7).map fun i => stray (BitVec.ofNat 12 i))).strays.length < 8) ∧
    ((100 : Label) ∉ (strayState ((List.range 8).map fun i => stray (BitVec.ofNat 12 i))).strays.map Stray.label ∧
      8 ≤ (strayState ((List.range 8).map fun i => stray (BitVec.ofNat 12 i))).strays.length) := by
  decide +kernel

def bOnlyState : State :=
  { atWork with
    rxA := receiving 100
    tables := { atWork.tables with active := { bankX with
      entries := { entryX with policy := .bOnly } :: List.replicate 127 Entry.default } } }

theorem bOnly_entry (n : Index) :
    bOnlyState.tables.active.entry n = if n = 0 then { entryX with policy := .bOnly } else Entry.default := by
  revert n; decide +kernel

theorem test_witness_CellsOnAnExcludedPath :
    bOnlyState.tables.active.sound ∧ (bOnlyState.entry 0).valid = true ∧ (bOnlyState.entry 0).inLabel = 100 ∧
    (bOnlyState.entry 0).policy = .bOnly ∧ (bOnlyState.rx .a).reception.isSome = true := by
  have h : ∀ n : Index, (bOnlyState.tables.active.entry n).valid = true → n = 0 := by
    intro n hn; rw [bOnly_entry] at hn; by_contra h0; rw [if_neg h0] at hn; cases hn
  refine ⟨⟨fun i j hi hj _ => (h i hi).trans (h j hj).symm, fun i hi => ?_⟩, by decide +kernel⟩
  rw [h i hi]; decide +kernel

def paramsX : Params := Params.ofEntry entryX

def pastOne : Ctx :=
  { running with nes := 100, held := [heldAt 115 0], gapDeadline := some 500,
                 history := .emitted 5 .b 3 false :: List.replicate 63 .none }

/-- Distances 15 (held), 0 (not held), 16 and 32,767 ahead, 1, 2, 64 and 65 behind. -/
theorem test_witness_RunningDispositionsByDistance :
    pastOne.state = .running ∧ paramsX.window ≤ 256 ∧
    (seqDist pastOne.nes 115 < paramsX.window ∧ ∃ h ∈ pastOne.held, h.buffer.cell.seq = 115) ∧
    (seqDist pastOne.nes 100 < paramsX.window ∧ ∀ h ∈ pastOne.held, h.buffer.cell.seq ≠ 100) ∧
    (paramsX.window ≤ seqDist pastOne.nes 116 ∧ seqDist pastOne.nes 116 < 32768 ∧ pastOne.runCount < 7) ∧
    seqDist pastOne.nes 32867 = 32767 ∧
    (32768 ≤ seqDist pastOne.nes 99 ∧ 65536 - seqDist pastOne.nes 99 ≤ 64 ∧
      pastOne.history[65536 - seqDist pastOne.nes 99 - 1]? = some (.emitted 5 .b 3 false)) ∧
    (65536 - seqDist pastOne.nes 36 = 64 ∧
      pastOne.history[65536 - seqDist pastOne.nes 36 - 1]? = some .none) ∧
    (32768 ≤ seqDist pastOne.nes 35 ∧ 64 < 65536 - seqDist pastOne.nes 35) ∧
    (pastOne.held = [] ++ [heldAt 115 0] ∧ seqDist pastOne.nes 114 < paramsX.window ∧
      (∀ h ∈ [heldAt 115 0], seqDist pastOne.nes 114 < seqDist pastOne.nes h.buffer.cell.seq) ∧
      pastOne.occupancy < paramsX.quota) ∧
    (({ pastOne with state := .seeding } : Ctx).state = .seeding ∧ seqDist pastOne.nes 114 < paramsX.window ∧
      paramsX.window ≤ seqDist pastOne.nes 116) := by
  decide +kernel

/-- A context at its quota; an occupancy one below it, with no free buffer. -/
theorem test_witness_RefusedArrivalChangesOneCounter :
    (unseeded.state = .unseeded ∧ { paramsX with quota := 0 }.quota ≤ unseeded.occupancy) ∧
    (pastOne.state = .running ∧ seqDist pastOne.nes (bufferAt 101 0).cell.seq < paramsX.window ∧
      (∀ h ∈ pastOne.held, h.buffer.cell.seq ≠ (bufferAt 101 0).cell.seq) ∧
      { paramsX with quota := 1 }.quota ≤ pastOne.occupancy ∧ pastOne.occupancy < { paramsX with quota := 2 }.quota) ∧
    ({ unseeded with state := .seeding }.state = .seeding ∧
      seqDist unseeded.nes (bufferAt 15 0).cell.seq < paramsX.window) := by decide +kernel

/-- The cell of number 7 at a flow at its quota, and with no free buffer. -/
theorem test_witness_RefusedArrivalsLeaveTheState :
    (let full : Ctx := { unseeded with queue := [bufferAt 1 0, bufferAt 2 0, bufferAt 3 0, bufferAt 4 0] }
     (arrivalState full).reachesFlow .a (headerOn 100) zeros zerosCheck 0 ∧ full.settled paramsX 0 ∧
      full.state = .unseeded ∧ entryX.quota.toNat ≤ full.occupancy) ∧
    (let s : State := { arrivalState unseeded with pool := { free := 0, lowWater := 0 } }
     s.reachesFlow .a (headerOn 100) zeros zerosCheck 0 ∧ unseeded.settled paramsX 0 ∧
      unseeded.occupancy < entryX.quota.toNat ∧ s.pool.free = 0) :=
  ⟨⟨arrival_reaches _, rfl, rfl, by decide +kernel⟩,
    ⟨rfl, rfl, rfl, by decide +kernel, by decide, rfl, bankX_sound, rfl, rfl, rfl⟩, rfl, by decide +kernel⟩

/-- The cell of number 7, 1 behind NES with nothing EMITTED and 65 behind it, and 16 and 32,767 ahead of it, the run at 6;
and 16 ahead of a SEEDING flow's NES. -/
theorem test_witness_LateAndOutOfWindowLeaveTheState :
    (∀ c : Ctx, (arrivalState c).reachesFlow .a (headerOn 100) zeros zerosCheck 0) ∧
    (let at' (nes : Seq) : Ctx := { running with nes := nes, runCount := 6 }
     (∀ nes : Seq, (at' nes).settled paramsX 0) ∧ (at' 8).runCount < 7 ∧
      32768 ≤ seqDist (8 : Seq) 7 ∧ (at' 8).history[65536 - seqDist (8 : Seq) 7 - 1]? = some .none ∧
      64 < 65536 - seqDist (72 : Seq) 7 ∧ seqDist (65527 : Seq) 7 = entryX.window.size ∧
      seqDist (32776 : Seq) 7 = 32767) ∧
    (let c : Ctx := { Ctx.fresh .seeding 2 with nes := 65527, seedingStamp := some 0, seedingDeadline := some 500 }
     c.settled paramsX 0 ∧ c.state = .seeding ∧ entryX.window.size ≤ seqDist c.nes 7) :=
  ⟨arrival_reaches, ⟨fun _ => rfl, by decide +kernel⟩, rfl, rfl, by decide +kernel⟩

theorem test_witness_DuplicatesAreComparedAndMeasured :
    pastOne.state = .running ∧ paramsX.window ≤ 256 ∧
    (seqDist pastOne.nes (bufferAt 115 9).cell.seq < paramsX.window ∧
      pastOne.held.find? (fun h => h.buffer.cell.seq == (bufferAt 115 9).cell.seq) = some (heldAt 115 0)) ∧
    (32768 ≤ seqDist pastOne.nes (bufferAt 99 9).cell.seq ∧ 65536 - seqDist pastOne.nes (bufferAt 99 9).cell.seq ≤ 64 ∧
      pastOne.history[65536 - seqDist pastOne.nes (bufferAt 99 9).cell.seq - 1]? = some (.emitted 5 .b 3 false)) := by
  decide +kernel

/-- A copy of number 7: of the held record 2 ahead of NES, in RUNNING and in SEEDING, and of an EMITTED position 1 behind. -/
theorem test_witness_DuplicatesLeaveTheState :
    (let c (state : CtxState) : Ctx := { running with
        state := state, nes := 5, held := [heldAt 7 0]
        gapDeadline := if state = .running then some 500 else none
        seedingStamp := if state = .seeding then some 0 else none
        seedingDeadline := if state = .seeding then some 500 else none }
     (∀ state, (arrivalState (c state)).reachesFlow .a (headerOn 100) zeros zerosCheck 0) ∧
      (c .running).settled paramsX 0 ∧ (c .seeding).settled paramsX 0 ∧ (c .running).state = .running ∧
      (c .seeding).state = .seeding ∧ seqDist (5 : Seq) 7 < entryX.window.size ∧
      (c .running).held.find? (fun r => r.buffer.cell.seq == (headerOn 100).seq) = some (heldAt 7 0)) ∧
    (let c : Ctx := { running with nes := 8, history := .emitted 5 .b 3 false :: List.replicate 63 .none }
     (arrivalState c).reachesFlow .a (headerOn 100) zeros zerosCheck 0 ∧ c.settled paramsX 0 ∧ c.state = .running ∧
      32768 ≤ seqDist c.nes 7 ∧ 65536 - seqDist c.nes 7 ≤ 64 ∧
      c.history[65536 - seqDist c.nes 7 - 1]? = some (.emitted 5 .b 3 false)) :=
  ⟨⟨fun _ => arrival_reaches _, by unfold Ctx.settled; decide +kernel⟩,
    arrival_reaches _, by unfold Ctx.settled; decide +kernel⟩

theorem test_witness_EighthOutOfWindowResyncs :
    { pastOne with runCount := 7 }.state = .running ∧ { pastOne with runCount := 7 }.runCount = 7 ∧
    paramsX.window ≤ seqDist pastOne.nes (bufferAt 116 0).cell.seq ∧
    seqDist pastOne.nes (bufferAt 116 0).cell.seq < 32768 ∧
    seqDist pastOne.nes (bufferAt 32867 0).cell.seq = 32767 ∧
    pastOne.queue.length < paramsX.quota ∧ 0 + pastOne.held.length ≠ 0 ∧
    ({ paramsX with quota := 0 }.quota ≤ pastOne.queue.length) ∧
    (0 + { pastOne with held := [] }.held.length = 0) := by decide +kernel

/-- Number 7 as the eighth in a row out of the window, 16 ahead: with room, at the quota, and with no buffer anywhere. -/
theorem test_witness_TriggerCellsLeaveTheState :
    (let c (queued : Nat) (held : List HeldRec) : Ctx := { running with
        nes := 65527, runCount := 7, held := held, queue := List.replicate queued (bufferAt 1 0) }
     (arrivalState (c 3 [heldAt 65529 0])).reachesFlow .a (headerOn 100) zeros zerosCheck 0 ∧
      (c 3 [heldAt 65529 0]).state = .running ∧ (c 3 [heldAt 65529 0]).runCount = 7 ∧
      entryX.window.size ≤ seqDist (65527 : Seq) 7 ∧ seqDist (65527 : Seq) 7 < 32768 ∧
      ((c 3 []).queue.length < entryX.quota.toNat ∧ entryX.quota.toNat ≤ (c 4 []).queue.length) ∧
      0 < 0 + (c 3 [heldAt 65529 0]).held.length ∧ 0 + (c 3 []).held.length = 0) :=
  ⟨arrival_reaches _, by decide +kernel⟩

theorem test_witness_FirstArrivalSeedsTheFlow :
    (arrivalState unseeded).tables.active.sound ∧ (arrivalState unseeded).phase = .active ∧
    (arrivalState unseeded).rx .a = { (arrivalState unseeded).rx .a with
      state := .up, reception := some { kind := .data, label := 100, seq := 7, check := 0x68 } } ∧
    zeros.length = 54 ∧ payloadPasses zeros zerosCheck = true ∧ (arrivalState unseeded).flows.length = 128 ∧
    ((arrivalState unseeded).entry 0).valid = true ∧ ((arrivalState unseeded).entry 0).inLabel = 100 ∧
    ((arrivalState unseeded).entry 0).policy.uses .a = true ∧ ((arrivalState unseeded).flow 0).state = .unseeded ∧
    ((arrivalState unseeded).flow 0).occupancy < ((arrivalState unseeded).entry 0).quota.toNat ∧
    (arrivalState unseeded).pool.free ≠ 0 ∧ ((arrivalState unseeded).entry 0).loneHold.toNat * 100 ≠ 0 :=
  ⟨bankX_sound, by decide +kernel⟩

/-- The queue empty, and at one below the quota of 4. -/
theorem test_witness_ArrivalAtNesIsReleased :
    (arrivalState running).tables.active.sound ∧ (arrivalState running).phase = .active ∧
    (arrivalState running).rx .a = { (arrivalState running).rx .a with
      state := .up, reception := some { kind := .data, label := 100, seq := 7, check := 0x68 } } ∧
    payloadPasses zeros zerosCheck = true ∧ (arrivalState running).flows.length = 128 ∧
    (arrivalState running).sched.rings.length = 8 ∧ ((arrivalState running).entry 0).inLabel = 100 ∧
    ((arrivalState running).flow 0).state = .running ∧ ((arrivalState running).flow 0).held = [] ∧
    (7 : Seq) = ((arrivalState running).flow 0).nes ∧
    ((arrivalState { running with queue := [bufferAt 4 0, bufferAt 5 0, bufferAt 6 0] }).flow 0).queue.length
      < ((arrivalState running).entry 0).quota.toNat ∧ (arrivalState running).pool.free ≠ 0 :=
  ⟨bankX_sound, by decide +kernel⟩

/-- The cell of number 7 two ahead of NES, between the held 6 and 8; and at NES with 8 and 9 behind it and 12 left held,
one tick short of past. -/
theorem test_witness_RunningArrivalsJoinAndRelease :
    ((arrivalState { running with nes := 5, held := [heldAt 6 1, heldAt 8 2] }).tables.active.sound) ∧
    (let c : Ctx := { running with nes := 5, held := [heldAt 6 1, heldAt 8 2] }
     ((arrivalState c).entry 0).policy.uses .a = true ∧ ((arrivalState c).flow 0).occupancy < 4 ∧
      0 < seqDist c.nes 7 ∧ seqDist c.nes 7 < entryX.window.size ∧ c.held = [heldAt 6 1] ++ [heldAt 8 2] ∧
      (∀ r ∈ [heldAt 6 1], 0 < seqDist c.nes r.buffer.cell.seq ∧ seqDist c.nes r.buffer.cell.seq < seqDist c.nes 7) ∧
      (∀ r ∈ [heldAt 8 2], seqDist c.nes 7 < seqDist c.nes r.buffer.cell.seq) ∧
      ((500 : Time) - (heldAt 6 1).buffer.stamp).toNat < entryX.loneHold.toNat * 100) ∧
    (let c : Ctx := { running with held := [heldAt 8 0, heldAt 9 0, heldAt 12 1] }
     (7 : Seq) = c.nes ∧ c.held = [heldAt 8 0, heldAt 9 0] ++ [heldAt 12 1] ∧ (∀ r ∈ c.held, r.buffer.cell.seq ≠ c.nes) ∧
      (heldAt 9 0).buffer.cell.seq = c.nes + BitVec.ofNat 16 (1 + 1) ∧
      (heldAt 12 1).buffer.cell.seq ≠ c.nes + BitVec.ofNat 16 (2 + 1) ∧
      ((500 : Time) - (heldAt 12 1).buffer.stamp).toNat < entryX.loneHold.toNat * 100) :=
  ⟨bankX_sound, by decide +kernel, by decide +kernel⟩

def seedingWith (held : List HeldRec) : Ctx :=
  { Ctx.fresh .seeding 2 with seedingStamp := some 0, seedingDeadline := some 500, held := held }

/-- At the deadline's own tick, with nothing held, and with a run of two below a record that is 1 tick short of its own
deadline; and context M. -/
theorem test_witness_SeedingDeadlineEndsSeeding :
    (((oneFlow (seedingWith [])).flow 0).held = [] ∧ ((oneFlow (seedingWith [])).flow 0).state = .seeding ∧
      ((oneFlow (seedingWith [])).flow 0).applicableHold (Params.ofEntry ((oneFlow (seedingWith [])).entry 0))
        ≤ (((oneFlow (seedingWith [])).advance 500).timeBase - 0).toNat) ∧
    (let c := (oneFlow (seedingWith [heldAt 5 0, heldAt 6 3, heldAt 8 1])).flow 0
     c.held = heldAt 5 0 :: ([heldAt 6 3] ++ [heldAt 8 1]) ∧
      (heldAt 6 3).buffer.cell.seq = (heldAt 5 0).buffer.cell.seq + BitVec.ofNat 16 (0 + 1) ∧
      (heldAt 8 1).buffer.cell.seq ≠ (heldAt 5 0).buffer.cell.seq + BitVec.ofNat 16 (1 + 1) ∧
      (((oneFlow (seedingWith [heldAt 5 0, heldAt 6 3, heldAt 8 1])).advance 500).timeBase - 1).toNat
        < c.applicableHold paramsX) ∧
    (({ atWork with m := seedingWith [] } : State).m.state = .seeding ∧
      ({ atWork with m := seedingWith [] } : State).m.held = [] ∧
      ({ atWork with m := seedingWith [] } : State).agent.commands = [] ∧
      atWork.tables.settings.managementHold.toNat * 100 ≤ ((atWork.advance 200000).timeBase - 0).toNat) := by
  decide +kernel

/-- Context M at its seeding deadline: a run of two cells for target 7 below a record one tick short of its own deadline, and
a single broadcast command with the reply queue full. -/
theorem test_witness_SeedingDeadlineHandsOverTheRun :
    (let cell (seq : Seq) (stamp : Time) (target : Byte) : HeldRec :=
        { heldAt seq stamp with buffer := { bufferAt seq stamp with cell := { (bufferAt seq stamp).cell with
            payload := target :: List.replicate 53 0 } } }
     (let s : State := { atWork with
          m := seedingWith (cell 5 0 7 :: ([cell 6 3 7] ++ [cell 8 1 7])), pool := { free := 2045, lowWater := 2045 } }
      s.m.state = .seeding ∧ s.m.seedingStamp = some 0 ∧ s.agent.commands = [] ∧
        s.tables.settings.managementHold.toNat * 100 ≤ ((s.advance 200000).timeBase - 0).toNat ∧
        s.m.held = cell 5 0 7 :: ([cell 6 3 7] ++ [cell 8 1 7]) ∧
        (cell 6 3 7).buffer.cell.seq = (cell 5 0 7).buffer.cell.seq + BitVec.ofNat 16 (0 + 1) ∧
        (cell 8 1 7).buffer.cell.seq ≠ (cell 5 0 7).buffer.cell.seq + BitVec.ofNat 16 (1 + 1) ∧
        ((s.advance 200000).timeBase - 1).toNat < s.tables.settings.managementHold.toNat * 100 ∧
        s.pool.free + (1 + 1) ≤ 2048 ∧ (7 : Byte).toNat ≠ 31 ∧ (7 : Byte).toNat ≠ s.agent.strap.toNat) ∧
     (let s : State := { atWork with
          m := seedingWith [cell 5 0 31], pool := { free := 2047, lowWater := 2047 }
          agent := { atWork.agent with replies := List.replicate 8 (.reserved 1 saveCode) } }
      s.m.held = cell 5 0 31 :: ([] ++ []) ∧ s.pool.free + (0 + 1) ≤ 2048 ∧
        byteAt (cell 5 0 31).buffer.cell.payload 4 &&& 0x80 = 0 ∧
        (byteAt (cell 5 0 31).buffer.cell.payload 0).toNat = 31 ∧ 8 ≤ s.agent.replies.length)) := by decide +kernel

/-- At the deadline's own tick, in a flow and in context M, whose cell is for target 7. -/
theorem test_witness_GapExpiryGivesUpAndReleases :
    (((oneFlow { running with held := [heldAt 9 0] }).flow 0).state = .running ∧
      ((oneFlow { running with held := [heldAt 9 0] }).flow 0).held = heldAt 9 0 :: [] ∧
      ((oneFlow { running with held := [heldAt 9 0] }).flow 0).applicableHold paramsX
        ≤ (((oneFlow { running with held := [heldAt 9 0] }).advance 500).timeBase - 0).toNat) ∧
    ({ atWork.allocBuffer with m := running } : State).pool.free < 2048 ∧
    (let h : HeldRec := { heldAt 9 0 with buffer := { bufferAt 9 0 with cell := { (bufferAt 9 0).cell with
        payload := 7 :: List.replicate 53 0 } } }
     ({ atWork with m := { running with held := [h] } } : State).m.held = [h] ∧ (byteAt h.buffer.cell.payload 0).toNat ≠ 31 ∧
      (byteAt h.buffer.cell.payload 0).toNat ≠ atWork.agent.strap.toNat ∧
      atWork.tables.settings.managementHold.toNat * 100 ≤ ((atWork.advance 200000).timeBase - 0).toNat) := by
  decide +kernel

theorem test_witness_PresenceExpiryMakesPathAbsent :
    (let c := running.setPres .a { present := true, last := some 0, expiry := some 2000000 }
     (((oneFlow c).flow 0).pres .a).present = true ∧ (((oneFlow c).flow 0).pres .a).last = some 0 ∧
      (oneFlow c).flows.length = 128 ∧
      (oneFlow c).tables.settings.pathTimeout.toNat * 100000 ≤ (((oneFlow c).advance 2000000).timeBase - 0).toNat ∧
      (({ atWork with m := c } : State).m.pres .a).present = true ∧
      (({ atWork with m := c } : State).m.pres .a).last = some 0) := by decide +kernel

def atBoundary (c : Ctx) (pendingBank : Bank) (commit : CommitState) : State :=
  { oneFlow c with
    tables := { active := bankX, pendingBank := pendingBank, settings := Settings.default, commit := commit }
    sched := { position := 1, slotUsed := true, rings := List.replicate 8 [] }
    agent := { atWork.agent with replies := [.reserved 8 saveCode, .reserved 7 commitCode] } }

theorem test_witness_RoundBoundaryWrapsAndCommits :
    (let s := atBoundary running Bank.default (.outstanding 7)
     s.phase = .active ∧ s.sched.slotUsed = true ∧ s.tables.active.calendar.length ≤ s.sched.position + 1 ∧
      s.flows.length = 128 ∧ s.agent.replies = [.reserved 8 saveCode] ++ .reserved 7 commitCode :: [] ∧
      (s.entry 1).valid = false ∧ (s.tables.pendingBank.entry 1).valid = false) ∧
    (atBoundary running bankX .none).tables.commit = .none ∧
    (∀ t', Place.reserved t' commitCode ∉ ([.reserved 8 saveCode] : List Place)) := by
  refine ⟨by decide +kernel, by decide +kernel, ?_⟩
  intro t'; simp [commitCode, saveCode]

/-- Entry 0 keeps its in-label and changes hold and class: a gap one tick short of past and at it, and a SEEDING context;
and a window that shrinks from 32 to 16 and leaves a context nothing held, or one record. -/
theorem test_witness_RoundBoundaryKeepsTheLabel :
    (let shrunk : Entry := { entryX with hold := 11, cls := 3 }
     let bank : Bank := { bankX with entries := shrunk :: List.replicate 127 Entry.default }
     let s (c : Ctx) : State := atBoundary c bank (.outstanding 7)
     ((s running).entry 0).valid = true ∧ ((s running).tables.pendingBank.entry 0).valid = true ∧
      ((s running).entry 0).inLabel = ((s running).tables.pendingBank.entry 0).inLabel ∧
      (s running).entry 0 ≠ (s running).tables.pendingBank.entry 0 ∧
      (∀ i : Index, i ≠ 0 → (s running).entry i = (s running).tables.pendingBank.entry i) ∧
      (s running).sched.rings.length = 8 ∧ running.servingClass = ((s running).entry 0).cls ∧
      (((s running).timeBase + 499) - (heldAt 9 0).buffer.stamp).toNat < shrunk.loneHold.toNat * 100 ∧
      shrunk.loneHold.toNat * 100 ≤ (((s running).timeBase + 500) - (heldAt 9 0).buffer.stamp).toNat ∧
      (none : Option Time) ≠ some ((heldAt 9 0).buffer.stamp + BitVec.ofNat 48 (shrunk.loneHold.toNat * 100)) ∧
      (heldAt 9 0).buffer.cell.seq ≠ running.nes ∧ (seedingWith [heldAt 5 0]).seedingStamp = some 0) ∧
    (let wide : Entry := { entryX with window := .w32 }
     entryX.window.size < wide.window.size ∧
      [heldAt 30 0].filter (fun r => decide (seqDist running.nes r.buffer.cell.seq < entryX.window.size)) = [] ∧
      [heldAt 9 0, heldAt 30 0].filter (fun r => decide (seqDist running.nes r.buffer.cell.seq < entryX.window.size))
        = [heldAt 9 0]) := by
  decide +kernel

/-- An entry that turns valid, with a queue that still drains: the index pair the third clause of the round boundary's
statement speaks of. -/
theorem test_witness_RoundBoundaryTurnsValid :
    (let s := { atBoundary { Ctx.fresh .draining 2 with queue := [bufferAt 1 0] } bankX (.outstanding 7) with
        tables := { active := Bank.default, pendingBank := bankX, settings := Settings.default,
                    commit := .outstanding 7 } }
     s.phase = .active ∧ s.sched.slotUsed = true ∧ s.tables.active.calendar.length ≤ s.sched.position + 1 ∧
      (s.entry 0).valid = false ∧ (s.tables.pendingBank.entry 0).valid = true) := by decide +kernel

theorem test_witness_CommitReleaseSendsEveryHeldCell :
    (seedingWith [heldAt 5 0, heldAt 7 0]).state = .seeding ∧ pastOne.state = .running ∧
    (seedingWith [heldAt 5 0, heldAt 7 0]).held.length ≤ 256 ∧ gapsBelow 5 [heldAt 5 0, heldAt 7 0] = 1 ∧
    gapsBelow pastOne.nes pastOne.held = 15 := by decide +kernel

def relabelledBank : Bank :=
  { bankX with entries := { entryX with inLabel := 101 } :: List.replicate 127 Entry.default }

theorem test_witness_CommitInvalidatesOrRelabels :
    (let s := atBoundary pastOne Bank.default (.outstanding 7)
     (s.entry 0).valid = true ∧ (s.tables.pendingBank.entry 0).valid = false) ∧
    (let s := atBoundary pastOne relabelledBank (.outstanding 7)
     (s.tables.pendingBank.entry 0).valid = true ∧ (s.tables.pendingBank.entry 0).inLabel ≠ (s.entry 0).inLabel) := by
  decide +kernel

/-- Held in reset, starting, and at work with the next slot of class 2: its own ring, a lent cell time, and none. -/
theorem test_witness_OutCellTimeServesTheCalendar :
    State.reset.phase = .heldPower ∧ (starting none none).phase = .starting ∧
    (let first : State := { oneFlow running with sched := { position := 1, slotUsed := false, rings := List.replicate 8 [] } }
     first.phase = .active ∧ first.sched.slotUsed ≠ true ∧ first.tables.active.calendar.slot 1 = .cls 2 ∧
      first.ring 2 = []) ∧
    (let last : State := { oneFlow running with sched := { position := 1, slotUsed := true, rings := List.replicate 8 [] } }
     ¬ last.sched.position + 1 < last.tables.active.calendar.length ∧ last.tables.commit = .none) ∧
    (let s (k : Nat) : State := { oneFlow { running with queue := [bufferAt 7 0] } with
        sched := { position := 0, slotUsed := true, rings := (List.replicate 8 []).set k [0] } }
     (s 2).sched.position + 1 < (s 2).tables.active.calendar.length ∧
      (s 2).tables.active.calendar.slot ((s 2).sched.position + 1) = .cls 2 ∧ (s 2).ring 2 = 0 :: [] ∧
      ((s 2).flow 0).queue = bufferAt 7 0 :: [] ∧
      (s 5).ring 5 = 0 :: [] ∧ (s 5).ring 2 = [] ∧ (s 5).tables.active.calendar.lend = true ∧
      (∀ i : Fin 8, i < 5 → (s 5).ring i = []) ∧
      (let none : State := { s 2 with sched := { position := 0, slotUsed := true, rings := List.replicate 8 [] } }
       none.ring 2 = [] ∧ ∀ j : Fin 8, none.ring j = [])) := by decide +kernel

theorem test_witness_OutCellIsRestampedAndChecked :
    (bufferAt 7 0).cell.payload.length = 54 ∧
    ({ (bufferAt 7 0).cell with kind := .clock }.kind = .clock ∧ entryX.valid = true ∧ entryX.restamp = true) ∧
    ¬ ((bufferAt 7 0).cell.kind = .clock ∧ entryX.valid = true ∧ entryX.restamp = true) := by decide +kernel

def echoReply (full : Bool) : Reply :=
  { source := 0, tag := 9, code := 1, status := .ok, result := List.replicate 49 1, restartsFull := full }

theorem test_witness_ReturnCellTimeSendsTheOldestReply :
    State.reset.phase = .heldPower ∧ (starting none none).phase = .starting ∧
    (let s : State := { atWork with agent := { atWork.agent with replies := [.reserved 1 saveCode] } }
     s.phase = .active ∧ ∀ p ∈ s.agent.replies, p.reservation.isSome = true) ∧
    (let s : State := { atWork with agent := { atWork.agent with
        replies := [.reserved 1 saveCode] ++ .filled (echoReply false) :: [] } }
     s.phase = .active ∧ s.agent.commands = [] ∧ s.m.micro s.mParams s.timeBase = .stay s.m ∧
      (∀ p ∈ ([.reserved 1 saveCode] : List Place), p.reservation.isSome = true) ∧
      (echoReply false).result.length ≤ 49) := by decide +kernel

/-- A take from eight places, one reserved ahead, with two commands waiting; and with a restart waiting. -/
theorem test_witness_ReturnCellTimeLetsTheHeadExecute :
    (let c (tag : Byte) : Command := { target := 31, tag := tag, code := 0x01, args := argsOf [1] }
     let s : State := { atWork with agent := { atWork.agent with
        commands := [c 1, c 2]
        replies := [.reserved 1 saveCode] ++ .filled (echoReply false) :: List.replicate 6 (.filled (echoReply false)) } }
     s.phase = .active ∧ s.agent.commands = c 1 :: [c 2] ∧ s.agent.restartWaiting = false ∧ s.agent.replies.length = 8 ∧
      s.m.micro s.mParams s.timeBase = .stay s.m ∧
      handsOver (.echo 31 1 (argsOf [1])) = some ((c 1).code, (c 1).target, (c 1).tag, (c 1).args) ∧
      (c 1).args.length = 49 ∧ (c 1).target.toNat = 31 ∧ (c 1).code ≠ 0x29 ∧ (c 1).code ≠ 0x39 ∧
      ({ s.agent with restartWaiting := true } : Agent).restartWaiting = true) := by decide +kernel

theorem test_witness_RestartFullTakesEffectWithItsReply :
    (let s : State := { atWork with agent := { atWork.agent with
        restartWaiting := true, replies := [.reserved 1 commitCode] ++ .filled (echoReply true) :: [] } }
     s.phase = .active ∧ (∀ p ∈ ([.reserved 1 commitCode] : List Place), p.reservation.isSome = true) ∧
      (echoReply true).restartsFull = true ∧ s.store.state = .idle) := by decide +kernel

theorem test_witness_NotifyFormsANotification :
    (let s : State := { atWork with agent := { atWork.agent with
        notifyPending := true, replies := List.replicate 7 (.filled (echoReply false)) } }
     s.phase = .active ∧ s.agent.notifyPending = true ∧ s.agent.commands = [] ∧ s.agent.replies.length < 8 ∧
      s.agent.restartWaiting = false) := by decide +kernel

theorem test_witness_SaveWriteEndFillsItsReply :
    (let s : State := { atWork with
        store := { storeOf none (some (imageOf 1)) with state := .writing false (imageOf 2) }
        agent := { atWork.agent with replies := [.reserved 1 commitCode] ++ .reserved 2 saveCode :: [] } }
     s.store.state = .writing false (imageOf 2) ∧
      s.agent.replies = [.reserved 1 commitCode] ++ .reserved 2 saveCode :: []) ∧
    (∀ t', Place.reserved t' saveCode ∉ ([.reserved 1 commitCode] : List Place)) := by
  refine ⟨by decide +kernel, ?_⟩
  intro t'; simp [commitCode, saveCode]

/-- Each cause is missing by the least there is: one tick short of a deadline, one position short of the last. -/
theorem test_witness_StepsWithoutTheirCauseOnlyPassTime :
    (atWork.phase ≠ .starting ∧ atWork.phase.counting = true ∧ (atWork.rx .a).state ≠ .hunt ∧
      (atWork.rx .a).state = .down ∧ (atWork.rx .a).reception = none ∧
      ((atWork.ctx .m).pres .a).present = false ∧ atWork.sched.slotUsed = false ∧
      atWork.agent.notifyPending = false ∧ atWork.store.state = .idle ∧ State.reset.phase ≠ .active ∧
      (atWork.ctx .m).state ≠ .seeding ∧ (atWork.ctx .m).state ≠ .running ∧
      ({ atWork.agent with restartWaiting := true } : Agent).restartWaiting = true) ∧
    (∀ stamp, (((oneFlow (running.setPres .a { present := true, last := some 1, expiry := some 2000001 })).ctx
          (.flow 0)).pres .a).last = some stamp →
      ((atWork.advance 2000000).timeBase - stamp).toNat < atWork.tables.settings.pathTimeout.toNat * 100000) ∧
    (∀ stamp, ((oneFlow (seedingWith [])).ctx (.flow 0)).seedingStamp = some stamp →
      (((oneFlow (seedingWith [])).advance 499).timeBase - stamp).toNat
        < ((oneFlow (seedingWith [])).ctx (.flow 0)).applicableHold ((oneFlow (seedingWith [])).params (.flow 0))) ∧
    (∀ h ∈ ((oneFlow { running with held := [heldAt 9 0] }).ctx (.flow 0)).held.head?,
      (((oneFlow { running with held := [heldAt 9 0] }).advance 499).timeBase - h.buffer.stamp).toNat
        < ((oneFlow { running with held := [heldAt 9 0] }).ctx (.flow 0)).applicableHold
            ((oneFlow { running with held := [heldAt 9 0] }).params (.flow 0))) := by
  refine ⟨by decide +kernel, ?_, ?_, ?_⟩
  · intro stamp h
    have h0 : (((oneFlow (running.setPres .a { present := true, last := some 1, expiry := some 2000001 })).ctx
        (.flow 0)).pres .a).last = some 1 := by decide +kernel
    rw [h0] at h
    have : stamp = 1 := (Option.some.inj h).symm
    subst this; decide +kernel
  · intro stamp h
    have : stamp = 0 := by
      have h0 : ((oneFlow (seedingWith [])).ctx (.flow 0)).seedingStamp = some 0 := by decide +kernel
      rw [h0] at h; exact (Option.some.inj h).symm
    subst this; decide +kernel
  · intro h hm
    have : h = heldAt 9 0 := by
      have h0 : ((oneFlow { running with held := [heldAt 9 0] }).ctx (.flow 0)).held.head? = some (heldAt 9 0) := by
        decide +kernel
      rw [h0] at hm; exact (Option.some.inj hm).symm
    subst this; decide +kernel

/-- Eight reply places taken, with an empty and with a full command queue. -/
def busy (commands : Nat) : State :=
  { atWork with
    rxA := { receiving managementLabel with
      reception := some { kind := .mgmt, label := managementLabel, seq := 7, check := 0 } }
    m := { running with servingClass := 0 }
    agent := { atWork.agent with
      commands := List.replicate commands { target := 0, tag := 1, code := 1, args := List.replicate 49 0 }
      replies := List.replicate 8 (.filled (echoReply false)) } }

theorem test_witness_ContextMHandsCellsToTheAgent :
    ((busy 3).phase = .active ∧ ((busy 3).rx .a).state = .up ∧ (busy 3).m.state = .running ∧ (busy 3).m.held = [] ∧
      (busy 3).m.queue = [] ∧ (7 : Seq) = (busy 3).m.nes ∧ (busy 3).pool.free ≠ 0 ∧ (busy 3).pool.free ≤ 2048 ∧
      8 ≤ (busy 3).agent.replies.length ∧ payloadPasses zeros zerosCheck = true) ∧
    (byteAt zeros 4 &&& 0x80 = 0 ∧ (byteAt zeros 0).toNat = (busy 3).agent.strap.toNat) ∧
    ((busy 3).agent.commands.length < 4 ∧ 4 ≤ (busy 4).agent.commands.length) ∧
    ((byteAt (7 :: List.replicate 53 0) 0).toNat ≠ 31 ∧
      (byteAt (7 :: List.replicate 53 0) 0).toNat ≠ (busy 3).agent.strap.toNat) := by decide +kernel

theorem test_witness_CommandsThatCannotExecuteWait :
    handsOver (.echo 0 1 zeros) = some (0x01, 0, 1, zeros) ∧ (argsOf []).length = 49 ∧
    (busy 3).m.micro (busy 3).mParams (busy 3).timeBase = .stay (busy 3).m ∧ State.reset.phase ≠ .active ∧
    ((30 : Byte).toNat ≠ 31 ∧ (30 : Byte).toNat ≠ atWork.agent.strap.toNat ∧ atWork.agent.commands = []) ∧
    ((31 : Byte).toNat = 31 ∧ 8 ≤ (busy 3).agent.replies.length ∧ (busy 3).agent.commands.length < 4 ∧
      4 ≤ (busy 4).agent.commands.length) := by decide +kernel

/-! ### Commands of a ready agent -/

/-- The broadcast target 31 and the strap address 0, and a reply queue with one place left. -/
theorem test_witness_agentReady :
    atWork.agentReady 31 ∧ atWork.agentReady 0 ∧
    ({ atWork with agent := { atWork.agent with replies := List.replicate 7 (.filled (echoReply false)) } } : State).agentReady 0 := by
  unfold State.agentReady; decide +kernel

theorem test_witness_oneFlowReady : (oneFlow running).agentReady 0 ∧ (oneFlow pastOne).agentReady 0 := by
  unfold State.agentReady; decide +kernel

theorem test_witness_EchoAndUnknownCodes :
    atWork.agentReady 0 ∧ (argsOf [1, 2]).length = 49 ∧ (0x7F : Byte) ∉ commandCodes ∧ (0x00 : Byte) ∉ commandCodes ∧
    (0x3D : Byte) ∉ commandCodes := by unfold State.agentReady; decide +kernel

theorem test_witness_GetStatusReports : atWork.agentReady 0 ∧ (argsOf [1]).length = 49 ∧ byteAt (argsOf []) 0 = 0 := by
  unfold State.agentReady; decide +kernel

/-- Banks 0 and 1; index 127; counts 1 and 32, the last ending at position 128. -/
theorem test_witness_GetEntryAndSlotsReadABank :
    (byteAt (argsOf [0, 127]) 0 = 0 ∧ (byteAt (argsOf [0, 127]) 1).toNat = (127 : Index).val) ∧
    (byteAt (argsOf [1, 96, 32]) 0 = 1 ∧ 1 ≤ (byteAt (argsOf [1, 96, 32]) 2).toNat ∧
      (byteAt (argsOf [1, 96, 32]) 2).toNat ≤ 32 ∧
      (byteAt (argsOf [1, 96, 32]) 1).toNat + (byteAt (argsOf [1, 96, 32]) 2).toNat ≤ 128) ∧
    (byteAt (argsOf [0, 127, 1]) 1).toNat + (byteAt (argsOf [0, 127, 1]) 2).toNat = 128 := by decide +kernel

/-- Index 127 with a whole entry; one slot at position 127 and the IDLE byte; lengths 1 and 128 with LEND off and on. -/
theorem test_witness_PutsWriteThePendingBank :
    atWork.tables.commit = .none ∧ atWork.tables.pendingBank.calendar.slots.length = 128 ∧
    ((byteAt (argsOf (127 :: entryBytes)) 0).toNat = (127 : Index).val ∧
      decodeEntry (argsOf (127 :: entryBytes)) 1 = some entryX) ∧
    (let slots : List Slot := [.idle]
     (byteAt (argsOf [127, 1, 0xFF]) 0).toNat = 127 ∧ (byteAt (argsOf [127, 1, 0xFF]) 1).toNat = slots.length ∧
      127 + slots.length ≤ 128 ∧ decodeSlot (byteAt (argsOf [127, 1, 0xFF]) (2 + 0)) = slots[0]?) ∧
    ((byteAt (argsOf [1, 0]) 0).toNat = 1 ∧ byteAt (argsOf [1, 0]) 1 = (if false then 1 else 0)) ∧
    ((byteAt (argsOf [128, 1]) 0).toNat = 128 ∧ byteAt (argsOf [128, 1]) 1 = (if true then 1 else 0)) := by
  decide +kernel

/-- A sound PENDING bank; one whose entry 1 repeats the in-label of entry 0; one whose lone hold is above its hold. -/
theorem test_witness_CommitValidatesAndReserves :
    bankX.sound ∧ atWork.tables.commit = .none ∧
    (let bank : Bank := { bankX with entries := entryX :: entryX :: List.replicate 126 Entry.default }
     (bank.entry 1).valid = true ∧ (0 : Index) < 1 ∧ (bank.entry 0).valid = true ∧
      (bank.entry 0).inLabel = (bank.entry 1).inLabel ∧ ¬ (bank.entry 0).hold.toNat < (bank.entry 0).loneHold.toNat ∧
      ∀ k : Index, k < 1 → k = 0) ∧
    (let bank : Bank := { bankX with entries := { entryX with loneHold := 11 } :: List.replicate 127 Entry.default }
     (bank.entry 0).valid = true ∧ (bank.entry 0).hold.toNat < (bank.entry 0).loneHold.toNat ∧
      ¬ ∃ k : Index, k < 0) :=
  ⟨bankX_sound, rfl, by decide +kernel, by decide +kernel⟩

theorem test_witness_GetCountersReadsAndClears :
    (byteAt (argsOf [127, 2, 1]) 0).toNat = (127 : Index).val ∧ (byteAt (argsOf [127, 2, 1]) 1).toNat ≤ 2 ∧
    byteAt (argsOf [128, 0, 0]) 0 = 128 := by decide +kernel

theorem test_witness_GetDeviceCountersReadsAndClears :
    atWork.agentReady 31 ∧ (argsOf [2, 1]).length = 49 ∧ byteAt (argsOf [2, 1]) 1 ≠ 0 ∧ byteAt (argsOf [3]) 0 = 3 := by
  unfold State.agentReady; decide +kernel

theorem test_witness_AlarmsAreReadAndCleared : atWork.agentReady 31 ∧ (argsOf [0xFF, 0xFF]).length = 49 := by
  unfold State.agentReady; decide +kernel

/-- Path timeout 20 as it stands, and the ends 1 and 1,000, with context M settled under the new record. -/
theorem test_witness_SettingsAreReadAndWritten :
    (let u (timeout : BitVec 16) : Settings :=
        { pathTimeout := timeout, managementHold := 1, skewLimit := 65535, alarmMask := 1, notifyMask := 4095 }
     (u 1).inRange ∧ (u 1000).inRange ∧ (u 20).inRange ∧ (u 20).pathTimeout = atWork.tables.settings.pathTimeout ∧
      (u 1).pathTimeout ≠ atWork.tables.settings.pathTimeout ∧
      atWork.m.micro (Params.ofSettings (u 1)) atWork.timeBase = .stay atWork.m ∧
      u 1000 = { pathTimeout := wordAt (argsOf [3, 232, 0, 1, 255, 255, 0, 1, 255, 255]) 0
                 managementHold := wordAt (argsOf [3, 232, 0, 1, 255, 255, 0, 1, 255, 255]) 2
                 skewLimit := wordAt (argsOf [3, 232, 0, 1, 255, 255, 0, 1, 255, 255]) 4
                 alarmMask := (wordAt (argsOf [3, 232, 0, 1, 255, 255, 0, 1, 255, 255]) 6).truncate 12
                 notifyMask := (wordAt (argsOf [3, 232, 0, 1, 255, 255, 0, 1, 255, 255]) 8).truncate 12 }) := by
  unfold Settings.inRange; decide +kernel

theorem test_witness_StraysAreReadAndCleared :
    (strayState [stray 1, stray 2]).agentReady 0 ∧ (argsOf [0xFF]).length = 49 := by
  unfold State.agentReady; decide +kernel

theorem test_witness_ResetFlowRestartsTheContext :
    (oneFlow pastOne).agentReady 0 ∧ (byteAt (argsOf [0]) 0).toNat = (0 : Index).val ∧
    ((oneFlow pastOne).entry 0).valid = true ∧ 127 < (byteAt (argsOf [128]) 0).toNat ∧
    ((byteAt (argsOf [1]) 0).toNat = (1 : Index).val ∧ ((oneFlow pastOne).entry 1).valid = false) := by
  unfold State.agentReady; decide +kernel

/-- An empty store, and a store with an image in each slot, for SAVE and LOAD. -/
theorem test_witness_SaveAndLoad :
    (atWork.agentReady 0 ∧ atWork.store.state = .idle ∧ atWork.store.consult.newest = none) ∧
    (let s : State := { atWork with store := storeOf (some (imageOf 4294967294)) (some (imageOf 4294967295)) }
     s.agentReady 0 ∧ s.store.state = .idle ∧ s.tables.commit = .none ∧
      ∀ i : Image, s.store.slot0 = some i ∨ s.store.slot1 = some i →
        i.settings.pathTimeout = s.tables.settings.pathTimeout ∧
          s.m.settled (Params.ofSettings i.settings) s.timeBase) := by
  refine ⟨by unfold State.agentReady; decide +kernel, by unfold State.agentReady; decide +kernel, rfl, rfl, ?_⟩
  rintro i (h | h) <;> cases Option.some.inj h <;> exact ⟨rfl, rfl⟩

theorem test_witness_RestartsFullAndTraffic :
    atWork.agentReady 0 ∧ (List.replicate 48 (0 : Byte)).length = 48 ∧ atWork.store.state = .idle ∧
    (0xF0 : Byte) ≠ 0xF1 ∧ (0xF2 : Byte) ≠ 0xF1 := by unfold State.agentReady; decide +kernel

theorem test_witness_CommitAndStoreRefusals :
    (let s : State := { atWork with tables := { atWork.tables with commit := .outstanding 7 } }
     s.agentReady 0 ∧ s.tables.commit = .outstanding 7 ∧ handsOver (.load 0 1 (argsOf [])) = some (0x39, 0, 1, argsOf [])) ∧
    (let s : State := { atWork with store := { storeOf none none with state := .writing false (imageOf 1) } }
     s.agentReady 0 ∧ s.tables.commit = .none ∧ s.store.state = .writing false (imageOf 1)) ∧
    (handsOver (.restartFull 0 1 (List.replicate 48 0)) = some (0x3C, 0, 1, 0xF1 :: List.replicate 48 0) ∧
      byteAt (0xF1 :: List.replicate 48 0) 0 = 0xF1 ∧ (0xF1 :: List.replicate 48 (0 : Byte)).length = 49) ∧
    (atWork.store.state = .idle ∧ atWork.store.consult.newest = none) := by
  unfold State.agentReady; decide +kernel

/-- The first value beyond each range. -/
theorem test_witness_BadArgumentRefusals :
    1 < (byteAt (argsOf [2]) 0).toNat ∧ 127 < (byteAt (argsOf [0, 128]) 1).toNat ∧
    (byteAt (argsOf [0, 0, 0]) 2).toNat = 0 ∧ 32 < (byteAt (argsOf [0, 0, 33]) 2).toNat ∧
    128 < (byteAt (argsOf [0, 127, 2]) 1).toNat + (byteAt (argsOf [0, 127, 2]) 2).toNat ∧
    atWork.tables.commit = .none ∧ 1 < (byteAt (argsOf [0, 2]) 1).toNat ∧
    4094 < (wordAt (argsOf [0, 1, 0x0F, 0xFF]) 2).toNat ∧ 4094 < (wordAt (argsOf [0, 1, 0, 1, 0x0F, 0xFF]) 4).toNat ∧
    (let bytes : List Byte := argsOf [0, 1, 0, 1, 0, 1, 3, 5, 0, 0, 0, 0, 8, 1, 8, 2, 2]
     2 < (byteAt bytes 6).toNat ∧ 4 < (byteAt bytes 7).toNat ∧ wordAt bytes 8 = 0 ∧ 2048 < (wordAt bytes 12).toNat ∧
      7 < (byteAt bytes 14).toNat ∧ 1 < (byteAt bytes 15).toNat ∧ 1 < (byteAt bytes 16).toNat) ∧
    wordAt (argsOf []) 12 = 0 ∧
    (byteAt (argsOf [0, 1, 8]) (2 + 0) ≠ 0xFF ∧ 7 < (byteAt (argsOf [0, 1, 8]) (2 + 0)).toNat) ∧
    (byteAt (argsOf [129]) 0).toNat = 129 ∧
    1 < (byteAt (argsOf [1, 2]) 1).toNat ∧ 2 < (byteAt (argsOf [0, 3]) 1).toNat ∧
    wordAt (argsOf []) 0 = 0 ∧ 1000 < (wordAt (argsOf [3, 233]) 0).toNat ∧
    ((byteAt (argsOf [0]) 0).toNat = (0 : Index).val ∧ (atWork.entry 0).valid = false) := by decide +kernel

theorem test_witness_TableEncodingsRoundTrip :
    entryX.inRange ∧ { entryX with inLabel := 4094, outLabel := 4094, hold := 65535, quota := 2048 }.inRange ∧
    Settings.default.inRange := by
  unfold Entry.inRange Settings.inRange; decide +kernel

/-! ### Laws every step keeps: a working state that meets them, and a step from it -/

/-- Reset ended with one valid entry, one cell held above a gap, one queued and one command waiting on the step queue. -/
def lawfulState : State :=
  { oneFlow { running with
      nes := 7
      held := [heldAt 9 0]
      gapDeadline := some 500
      queue := [bufferAt 6 0] } with
    pending := [.echo 0 1 (argsOf [])]
    rxA := upReceiver 0
    pool := { free := 2046, lowWater := 2046 }
    sched := { position := 1, slotUsed := true, rings := (List.replicate 8 []).set 2 [0] }
    alarms := { latched := 0x13, holding := 0x12 } }

theorem test_witness_lawfulState_steps : ∃ t, step lawfulState = .next t := ⟨_, rfl⟩

theorem test_witness_QuietUntilLoadedIsKept :
    State.quietUntilLoaded { starting none none with pending := [.loadInstant 5] } ∧ lawfulState.quietUntilLoaded := by
  refine ⟨fun _ => ⟨rfl, rfl, rfl, rfl, rfl, rfl, rfl, rfl, rfl, rfl, rfl, rfl, rfl, ?_⟩, fun h => absurd rfl h⟩
  intro h; cases h

theorem test_witness_AgentQueuesStayLawful :
    lawfulState.queuesBounded ∧
    ({ lawfulState with agent := { lawfulState.agent with replies := List.replicate 8 (.filled (echoReply false)) } } : State).queuesBounded ∧
    lawfulState.placesLaw := by
  unfold State.queuesBounded State.placesLaw
  exact ⟨by decide +kernel, by decide +kernel, rfl, rfl, fun r hr => (nomatch hr), rfl⟩

theorem test_witness_ReceiversStayLawful : lawfulState.receiversLaw := by
  unfold State.receiversLaw Receiver.lawful; decide +kernel

theorem test_witness_StrayListStaysLawful :
    (strayState ((List.range 8).map fun i => stray (BitVec.ofNat 12 i))).straysLaw := by
  unfold State.straysLaw; decide +kernel

theorem test_witness_TablesAndPositionStayInRange : lawfulState.tablesInRange ∧ lawfulState.positionInCalendar := by
  unfold State.tablesInRange State.positionInCalendar Bank.inRange Settings.inRange Entry.inRange; decide +kernel

theorem test_witness_ActiveBankStaysSound : lawfulState.banksSound := by
  refine ⟨bankX_sound, fun h => absurd rfl h, fun i hi => ?_⟩
  have h0 : lawfulState.store.images = [] := by decide +kernel
  rw [h0] at hi; cases hi

theorem test_witness_ContextsStayLawful : lawfulState.contextsLaw := by
  have h0 : lawfulState.flow 0 = { running with
      nes := 7, held := [heldAt 9 0], gapDeadline := some 500, queue := [bufferAt 6 0] } := by decide +kernel
  have hn : ∀ n : Index, n ≠ 0 → lawfulState.flow n = Ctx.fresh .none 0 := by decide +kernel
  have he : ∀ n : Index, n ≠ 0 → lawfulState.entry n = Entry.default := by decide +kernel
  unfold State.contextsLaw
  refine ⟨by decide +kernel, fun n => ?_, ?_, by unfold Ctx.settled; decide +kernel, .inl rfl, rfl, rfl⟩
  · by_cases h : n = 0
    · subst h
      rw [h0]
      refine ⟨?_, by unfold Ctx.settled; decide +kernel, .inr (.inr rfl)⟩
      unfold Ctx.lawful; decide +kernel
    · rw [hn n h, he n h]
      refine ⟨?_, rfl, .inl ⟨rfl, rfl⟩⟩
      unfold Ctx.lawful; decide +kernel
  · unfold Ctx.lawful; decide +kernel

theorem test_witness_BuffersAreConserved : lawfulState.buffersConserved := by
  unfold State.buffersConserved; decide +kernel

theorem test_witness_RingsFollowTheQueues : lawfulState.flows.length = 128 ∧ lawfulState.ringsLaw := by
  unfold State.ringsLaw; decide +kernel

theorem test_witness_AlarmCopiesFollowTheConditions : lawfulState.alarmsLaw := by
  have hu : ¬ ∃ n : Index, (lawfulState.flow n).unprotected (lawfulState.entry n) = true := by decide +kernel
  have hs : ∃ n : Index, (lawfulState.flow n).silent = true := ⟨0, by decide +kernel⟩
  intro k
  cases k <;> simp only [State.condition, hu, hs] <;> decide +kernel

end Sys2Proof.Tests
end

section
/-! PROOFS. RESET_FLOW (R44): which argument bytes name an index, what flushing a flow changes, and the whole command as
a ready agent executes it. -/

namespace Sys2Proof.Machine

open Sys2Proof

/-! ## The index argument -/

/-- A byte names index `n` exactly when its value is `n` (R10). -/
theorem decodeIndex_eq_some_iff (b : Byte) (n : Index) : decodeIndex b = some n ↔ b.toNat = n.val := by
  unfold decodeIndex
  split
  · simp [Fin.ext_iff]
  · have := n.isLt
    simp only [reduceCtorEq, false_iff]
    omega

/-- The bytes that name no index are those above 127 (R10). -/
theorem decodeIndex_eq_none_iff (b : Byte) : decodeIndex b = none ↔ 127 < b.toNat := by
  unfold decodeIndex
  split <;> simp only [reduceCtorEq, false_iff, true_iff] <;> omega

/-! ## Freeing and flushing -/

/-- Buffers returned to the free list change its number, and the alarms with it. -/
theorem State.freeBuffers_onlyAlarms (n : Nat) (s : State) :
    State.onlyAlarms { s with pool := { s.pool with free := s.pool.free + n } } (s.freeBuffers n) := by
  unfold State.freeBuffers
  split
  · subst_vars; exact State.onlyAlarms_refl s
  · exact State.report_onlyAlarms _ _ _

/-- The state with context `n` restarted by RESET_FLOW and its held buffers free, the alarms not yet told (R44). -/
def State.flowFlushed (n : Index) (s : State) : State :=
  { s with
    flows := s.flows.set n.val (s.flow n).resetFlow
    pool := { s.pool with free := s.pool.free + (s.flow n).held.length } }

/-- Flushing a flow restarts its context and frees its held buffers; beyond that it can only change the alarms, by
POOL_EMPTY ceasing and the two flow conditions reported anew (R44, R78). -/
theorem State.flushFlow_onlyAlarms (n : Index) (s : State) : (s.flowFlushed n).onlyAlarms (s.flushFlow n) :=
  State.onlyAlarms_trans (State.freeBuffers_onlyAlarms _ (s.setFlow n (s.flow n).resetFlow))
    (State.reportFlows_onlyAlarms _)

/-- What the alarms leave of the fields that decide whether the agent or context M has more to do. -/
theorem State.onlyAlarms_keeps {s t : State} (h : s.onlyAlarms t) :
    t.agent.commands = s.agent.commands ∧ t.m = s.m ∧ t.tables = s.tables ∧ t.timeBase = s.timeBase := by
  obtain ⟨ht, -, -⟩ := h
  rw [ht]
  exact ⟨rfl, rfl, rfl, rfl⟩

/-- Flushing a flow leaves the command queue, context M, the tables and the Time Base. -/
theorem State.flushFlow_keeps (n : Index) (s : State) :
    (s.flushFlow n).agent.commands = s.agent.commands ∧ (s.flushFlow n).m = s.m ∧
      (s.flushFlow n).tables = s.tables ∧ (s.flushFlow n).timeBase = s.timeBase :=
  State.onlyAlarms_keeps (s := s.flowFlushed n) (State.flushFlow_onlyAlarms n s)

/-- A reply placed leaves alarms and notification-pending flag: a change of the alarms alone stays one behind it. -/
theorem State.replied_of_onlyAlarms {s t : State} (tag code : Byte) (st : Status) (result : List Byte)
    (h : s.onlyAlarms t) :
    t.replied tag code st result
      = State.replied tag code st result
          { s with alarms := t.alarms, agent := { s.agent with notifyPending := t.agent.notifyPending } } :=
  congrArg (State.replied tag code st result) h.1

/-! ## The command as a ready agent executes it -/

/-- A ready agent's command that is answered at once, and leaves context M with its parameters and the Time Base, is
done with its answer: nothing is left for the agent or context M. -/
theorem State.agentTakes_replied {s u : State} {code target tag : Byte} {args : List Byte} {st : Status}
    {result : List Byte} (h : s.agentReady target)
    (hr : runCommand (handed code target tag args) s = u.replied tag code st result)
    (hc : u.agent.commands = s.agent.commands) (hm : u.m = s.m) (ht : u.tables = s.tables)
    (hb : u.timeBase = s.timeBase) : s.agentTakes code target tag args = u.replied tag code st result := by
  have ⟨_, _, hq, _, _, hs⟩ := h
  refine State.agentTakes_eq h hr (hc.trans hq) ?_
  show u.m.micro (Params.ofSettings u.tables.settings) u.timeBase = .stay u.m
  rw [hm, ht, hb]
  exact hs

theorem exec_resetFlow (target tag : Byte) (args : List Byte) (s : State) :
    exec (.resetFlow target tag args) s = .next (s.agentTakes 0x30 target tag args) := rfl

/-- The execution refuses what names no index, and an index whose ACTIVE entry is invalid (R44, R169). -/
theorem runResetFlow_refused {c : Command} {s : State}
    (hx : 127 < (c.arg 0).toNat ∨ ∃ n : Index, (c.arg 0).toNat = n.val ∧ (s.entry n).valid = false) :
    runResetFlow c s = s.answer c .badArgument [] := by
  unfold runResetFlow
  obtain hx | ⟨n, hn, hv⟩ := hx
  · simp [(decodeIndex_eq_none_iff _).mpr hx]
  · simp [(decodeIndex_eq_some_iff _ n).mpr hn, hv]

/-- The execution flushes a flow whose ACTIVE entry is valid, and answers OK (R44). -/
theorem runResetFlow_valid {c : Command} {s : State} {n : Index} (hn : (c.arg 0).toNat = n.val)
    (hv : (s.entry n).valid = true) : runResetFlow c s = (s.flushFlow n).answer c .ok [] := by
  unfold runResetFlow
  simp [(decodeIndex_eq_some_iff _ n).mpr hn, hv]

theorem exec_resetFlow_refused {s : State} {target tag : Byte} {args : List Byte} (h : s.agentReady target)
    (ha : args.length = 49)
    (hx : 127 < (byteAt args 0).toNat ∨ ∃ n : Index, (byteAt args 0).toNat = n.val ∧ (s.entry n).valid = false) :
    exec (.resetFlow target tag args) s = .next (s.replied tag 0x30 .badArgument []) := by
  rw [← handed_arg (code := 0x30) (target := target) (tag := tag) 0 ha] at hx
  have hr : runCommand (handed 0x30 target tag args) s = s.replied tag 0x30 .badArgument [] :=
    runResetFlow_refused hx
  rw [exec_resetFlow, State.agentTakes_replied h hr rfl rfl rfl rfl]

theorem exec_resetFlow_valid {s : State} {target tag : Byte} {args : List Byte} {n : Index} (h : s.agentReady target)
    (ha : args.length = 49) (hn : (byteAt args 0).toNat = n.val) (hv : (s.entry n).valid = true) :
    exec (.resetFlow target tag args) s = .next ((s.flushFlow n).replied tag 0x30 .ok []) := by
  rw [← handed_arg (code := 0x30) (target := target) (tag := tag) 0 ha] at hn
  have hr : runCommand (handed 0x30 target tag args) s = (s.flushFlow n).replied tag 0x30 .ok [] :=
    runResetFlow_valid hn hv
  obtain ⟨hc, hm, ht, hb⟩ := State.flushFlow_keeps n s
  rw [exec_resetFlow, State.agentTakes_replied h hr hc hm ht hb]

/-- Settles O44: the witness state is the one `flushFlow` leaves, with the reply behind it; it differs from the flushed
state the statement writes out only in the alarms, and no report unlatches a kind. -/
theorem resetFlowRestartsTheContext : Obligations.ResetFlowRestartsTheContext := by
  intro s target tag args h ha
  refine ⟨exec_resetFlow_refused h ha, fun n hn hv => ?_⟩
  have hf := State.flushFlow_onlyAlarms n s
  have ⟨_, _, hlatched⟩ := hf
  exact ⟨_, exec_resetFlow_valid h ha hn hv, State.replied_of_onlyAlarms tag 0x30 .ok [] hf, hlatched⟩

end Sys2Proof.Machine
end

section
/-! PROOFS. GET_STATUS (R79, R163): what its clear option does to the pool, and the whole command as a ready agent
executes it. -/

namespace Sys2Proof.Machine

open Sys2Proof

/-- The state after the clear option's byte is read: with a byte other than 0 the low-water mark is the free count
(R79, R163). -/
def State.lowWaterCleared (option : Byte) (s : State) : State :=
  if option = 0 then s else { s with pool := { s.pool with lowWater := s.pool.free } }

/-- The clear option leaves the command queue, context M, the tables and the Time Base. -/
theorem State.lowWaterCleared_keeps (option : Byte) (s : State) :
    (s.lowWaterCleared option).agent.commands = s.agent.commands ∧ (s.lowWaterCleared option).m = s.m ∧
      (s.lowWaterCleared option).tables = s.tables ∧ (s.lowWaterCleared option).timeBase = s.timeBase := by
  unfold State.lowWaterCleared
  split <;> exact ⟨rfl, rfl, rfl, rfl⟩

/-- The execution answers with the status as it finds it, whatever the clear option then does to the low-water mark. -/
theorem runGetStatus_eq (c : Command) (s : State) :
    runGetStatus c s = (s.lowWaterCleared (c.arg 0)).answer c .ok s.statusResult := by
  unfold runGetStatus Command.clears State.lowWaterCleared
  by_cases h : c.arg 0 = 0
  · simp [h]
  · simp only [bne_iff_ne, h, ne_eq, not_false_eq_true, if_true, if_false]
    rfl

theorem exec_getStatus {s : State} {target tag : Byte} {args : List Byte} (h : s.agentReady target)
    (ha : args.length = 49) :
    exec (.getStatus target tag args) s
      = .next ((s.lowWaterCleared (byteAt args 0)).replied tag 0x02 .ok s.statusResult) := by
  have hr : runCommand (handed 0x02 target tag args) s
      = (s.lowWaterCleared (byteAt args 0)).replied tag 0x02 .ok s.statusResult := by
    rw [← handed_arg (code := 0x02) (target := target) (tag := tag) 0 ha]
    exact runGetStatus_eq (handed 0x02 target tag args) s
  obtain ⟨hc, hm, ht, hb⟩ := State.lowWaterCleared_keeps (byteAt args 0) s
  exact congrArg Host.Outcome.next (State.agentTakes_replied h hr hc hm ht hb)

/-- Settles O35: the model's status bytes are the ones the statement lists, and the clear option acts behind them. -/
theorem getStatusReports : Obligations.GetStatusReports :=
  fun _ _ _ _ h ha => exec_getStatus h ha

end Sys2Proof.Machine
end

section
/-! PROOFS. GET_ALARMS and CLEAR_ALARMS (R168, R182): which latches a clearing leaves, why an event kind never keeps
its latch, and both commands as a ready agent executes them. -/

namespace Sys2Proof.Machine

open Sys2Proof

/-! ## The latches a clearing leaves -/

/-- The positions of a 16-bit field that name kinds are those of the kinds' bits; the others are not read (R168). -/
theorem hasKind_decodeKinds (w : BitVec 16) (k : AlarmKind) : hasKind (decodeKinds w) k = w.getLsbD k.bit := by
  simp [hasKind, decodeKinds, AlarmKind.bit_lt]

/-- A latch outlives a clearing when it was set and was either not named or is held by its condition (R182). -/
theorem hasKind_clearedLatches (alarms : Alarms) (named : AlarmSet) (k : AlarmKind) :
    hasKind (clearedLatches alarms named) k = true ↔
      hasKind alarms.latched k = true ∧ (hasKind named k = false ∨ hasKind alarms.holding k = true) := by
  simp [clearedLatches]

/-- The condition of an event kind never holds (R182). -/
theorem State.not_condition_event {k : AlarmKind}
    (hk : k ∈ [AlarmKind.mismatch, .skew, .loss, .resync, .mgmtOverrun, .storeFailed, .storeEmpty]) (s : State) :
    ¬ s.condition k := by
  cases k with
  | mismatch | skew | loss | resync | mgmtOverrun | storeFailed | storeEmpty => exact id
  | linkADown | linkBDown | poolEmpty | flowUnprotected | flowSilent => exact absurd hk (by decide)

/-- Under the alarm law a named kind whose condition does not hold is not latched after a clearing. -/
theorem clearedLatches_not_condition {s : State} {named : AlarmSet} {k : AlarmKind} (hl : s.alarmsLaw)
    (hk : ¬ s.condition k) (hn : hasKind named k = true) : hasKind (clearedLatches s.alarms named) k = false := by
  obtain ⟨hcopy, -⟩ := hl k
  have hh : hasKind s.alarms.holding k = false := Bool.eq_false_iff.mpr (mt hcopy.mp hk)
  rw [Bool.eq_false_iff, Ne, hasKind_clearedLatches]
  simp [hn, hh]

/-! ## The commands as a ready agent executes them -/

theorem exec_getAlarms {s : State} {target : Byte} (tag : Byte) (args : List Byte) (h : s.agentReady target) :
    exec (.getAlarms target tag args) s = .next (s.replied tag 0x24 .ok
      (encodeKinds s.alarms.latched ++ encodeKinds s.alarms.holding
        ++ encodeKinds s.tables.settings.alarmMask ++ encodeKinds s.tables.settings.notifyMask)) :=
  congrArg Host.Outcome.next (State.agentTakes_replied h rfl rfl rfl rfl rfl)

theorem exec_clearAlarms {s : State} {target tag : Byte} {args : List Byte} (h : s.agentReady target)
    (ha : args.length = 49) :
    exec (.clearAlarms target tag args) s = .next (State.replied tag 0x25 .ok
      (encodeKinds (clearedLatches s.alarms (decodeKinds (wordAt args 0))))
      { s with alarms := { s.alarms with latched := clearedLatches s.alarms (decodeKinds (wordAt args 0)) } }) := by
  rw [← handed_arg16 (code := 0x25) (target := target) (tag := tag) 0 ha]
  exact congrArg Host.Outcome.next (State.agentTakes_replied h rfl rfl rfl rfl rfl)

/-- Settles O41: the latches left are `clearedLatches` of the kinds the argument names, and an event kind's condition,
so its copy under the alarm law, never holds a latch. -/
theorem alarmsAreReadAndCleared : Obligations.AlarmsAreReadAndCleared := by
  intro s target tag args h ha
  refine ⟨exec_getAlarms tag args h, clearedLatches s.alarms (decodeKinds (wordAt args 0)),
    exec_clearAlarms h ha, fun k => ?_, fun hl k hk hn => ?_⟩
  · rw [hasKind_clearedLatches, hasKind_decodeKinds]
  · exact clearedLatches_not_condition hl (State.not_condition_event hk s) (by rwa [hasKind_decodeKinds])

end Sys2Proof.Machine
end

section
/-! PROOFS. What a step can do, said once: the passing of its ticks and then one of the effects of `Effect`; and what the
execution of a management command can do, `Executed`. Every law that steps keep is proved along these two lists. -/

namespace Sys2Proof.Machine

open Sys2Proof

/-! ## The effects of a step -/

/-- The effect of a step behind its ticks, one constructor for each thing a row of the table can do, with the condition
under which the row does it. -/
inductive Effect (s : State) : State → Prop
  | still : Effect s s
  | powerUp : Effect s { s.fullReset .heldPower with
      out := { (s.fullReset .heldPower).out with line := none }
      ret := { (s.fullReset .heldPower).ret with line := none } }
  | resetPin : Effect s (s.fullReset .heldPin)
  | released (addr : BitVec 5) (held : s.phase.counting = false) : Effect s (s.releaseReset addr)
  | loaded (starting : s.phase = .starting) : Effect s s.loadInstant
  | detected (p : Path) : Effect s (s.setRx p
      (if s.phase.counting then Receiver.released { s.rx p with signal := true } else { s.rx p with signal := true }))
  | lost (p : Path) (out : (s.rx p).state ≠ .up) : Effect s (s.setRx p (Receiver.down false))
  | lostUp (p : Path) (last : Option (List Byte × List Byte)) (up : (s.rx p).state = .up) :
      Effect s (State.takeDelivered (s.lastOrCut p last).1
        (((s.lastOrCut p last).2.setRx p (Receiver.down false)).leftUp p))
  | found (p : Path) (hunt : (s.rx p).state = .hunt) : Effect s (s.setRx p
      { s.rx p with state := .check, boundary := some Config.cellBytes, passCount := 1, recent := [] })
  | hunted (p : Path) (bytes recent : List Byte) (hunt : (s.rx p).state = .hunt)
      (tested : huntBytes (s.rx p).recent bytes = some recent) : Effect s (s.setRx p { s.rx p with recent := recent })
  | checked (p : Path) (header : BitVec 48) (check : (s.rx p).state = .check) : Effect s (s.headerInCheck p header)
  | judged (p : Path) (header : BitVec 48) (up : (s.rx p).state = .up) : Effect s (s.headerInUp p header)
  | ended (p : Path) (h : Header) (payload check : List Byte) (receiving : (s.rx p).reception = some h) :
      Effect s (State.takeDelivered (s.lastByte p h payload check).1 (s.lastByte p h payload check).2)
  | seeding (i : ContextId) (due : (s.ctx i).seedingDue (s.params i) s.timeBase = true) : Effect s (s.expireSeeding i)
  | gap (i : ContextId) (due : (s.ctx i).gapDue (s.params i) s.timeBase = true) : Effect s (s.expireGap i)
  | presence (i : ContextId) (p : Path)
      (due : ((s.ctx i).pres p).expired s.tables.settings.timeoutTicks s.timeBase = true) :
      Effect s (s.expirePresence i p)
  | boundary (active : s.phase = .active) (due : s.boundaryDue = true) : Effect s s.roundBoundary
  | outSilent (held : s.phase.counting = false) : Effect s { s with out := { s.out with line := none } }
  | outStarting (starting : s.phase = .starting) : Effect s s.sendIdle
  | outActive (active : s.phase = .active) : Effect s s.freeSent.advancePosition.useSlot
  | returnSilent (addr : BitVec 5) (held : s.phase.counting = false) :
      Effect s { s with addrPins := addr, ret := { s.ret with line := none } }
  | returnStarting (addr : BitVec 5) (starting : s.phase = .starting) :
      Effect s (State.returnIdle { s with addrPins := addr })
  | returnActive (addr : BitVec 5) (active : s.phase = .active) :
      Effect s (State.returnTake addr { s with addrPins := addr })
  | notified (ready : s.notifyReady = true) : Effect s s.formNotification
  | written (ok slot : Bool) (image : Image) (writing : s.store.state = .writing slot image) :
      Effect s (s.endWrite ok slot image)
  | command (c : Command) (active : s.phase = .active) : Effect s (s.deliver 0 c).settleAgent

theorem Effect.agentTakes (code target tag : Byte) (args : List Byte) (s : State) :
    Effect s (s.agentTakes code target tag args) := by
  unfold State.agentTakes
  split
  · exact .command _ ‹_›
  · exact .still

/-- Every row is the passing of its ticks and then an effect of the list; a row without the operand passes none. -/
theorem exec_effect {i : Instr} {s t : State} (h : exec i s = .next t) : Effect s t ∨ ∃ d, Effect (s.advance d) t := by
  cases i with
  | powerUp => cases h; exact .inl .powerUp
  | resetNLow => cases h; exact .inl .resetPin
  | resetRelease addr =>
    cases h
    split
    · exact .inl .still
    · exact .inl (.released addr (Bool.eq_false_iff.mpr ‹_›))
  | loadInstant d =>
    cases h; refine .inr ⟨d, ?_⟩
    split
    · exact .loaded ‹_›
    · exact .still
  | signalDetected p d => cases h; exact .inr ⟨d, .detected p⟩
  | signalLost loss d =>
    refine .inr ⟨d, ?_⟩
    simp only [exec, execSignalLost] at h
    split at h <;> cases h
    · exact .lostUp _ _ ‹_›
    · exact .lost _ ‹_›
  | huntCandidatePasses p bytes d =>
    refine .inr ⟨d, ?_⟩
    simp only [exec, execHuntCandidatePasses] at h
    split at h
    · split at h <;> cases h
      · exact .found p ‹_›
      · exact .hunted p bytes _ ‹_› ‹_›
    · cases h; exact .still
  | headerAtBoundary p header d =>
    refine .inr ⟨d, ?_⟩
    simp only [exec, execHeaderAtBoundary] at h
    split at h <;> cases h
    · exact .checked p header ‹_›
    · exact .judged p header ‹_›
    · exact .still
    · exact .still
  | cellLastByte p payload check d =>
    refine .inr ⟨d, ?_⟩
    simp only [exec, execCellLastByte] at h
    split at h <;> cases h
    · exact .still
    · exact .ended p _ payload check ‹_›
  | seedingDeadline i d =>
    cases h; refine .inr ⟨d, ?_⟩
    split
    · exact .seeding i ‹_›
    · exact .still
  | gapExpiry i d =>
    cases h; refine .inr ⟨d, ?_⟩
    split
    · exact .gap i ‹_›
    · exact .still
  | presenceExpiry i p d =>
    cases h; refine .inr ⟨d, ?_⟩
    split
    · exact .presence i p ‹_›
    · exact .still
  | roundBoundary d =>
    cases h; refine .inr ⟨d, ?_⟩
    split
    · next hb => exact .boundary hb.1 hb.2
    · exact .still
  | outCellTimeStart d =>
    refine .inr ⟨d, ?_⟩
    simp only [exec, execOutCellTimeStart] at h
    split at h <;> cases h
    · next hp => exact .outSilent (by rw [hp]; rfl)
    · next hp => exact .outSilent (by rw [hp]; rfl)
    · exact .outStarting ‹_›
    · exact .outActive ‹_›
  | returnCellTime addr d =>
    refine .inr ⟨d, ?_⟩
    simp only [exec, execReturnCellTime] at h
    split at h <;> cases h
    · next hp => exact .returnSilent addr (by rw [hp]; rfl)
    · next hp => exact .returnSilent addr (by rw [hp]; rfl)
    · exact .returnStarting addr ‹_›
    · exact .returnActive addr ‹_›
  | notify =>
    cases h
    split
    · exact .inl (.notified ‹_›)
    · exact .inl .still
  | saveWriteEnd ok d =>
    refine .inr ⟨d, ?_⟩
    simp only [exec, execSaveWriteEnd] at h
    split at h <;> cases h
    · exact .still
    · exact .written ok _ _ ‹_›
  | echo | getStatus | getEntry | putEntry | getSlots | putSlots | putCalHeader | commit | abandon | getCounters
  | getDeviceCounters | getAlarms | clearAlarms | getSettings | putSettings | getStrays | clearStrays | resetFlow | save
  | load | restartFull | restartTraffic | badCommand => cases h; exact .inl (Effect.agentTakes _ _ _ _ s)

/-- What holds behind every step: `P` may lean on nothing of the waiting steps and outlive ticks, and every effect has to
lead from `P` to `Q`. -/
theorem step_leads {P Q : State → Prop} (pending : ∀ s rest, P s → P { s with pending := rest })
    (ticks : ∀ s d, P s → P (s.advance d)) (effect : ∀ s t, P s → Effect s t → Q t) :
    ∀ s t, P s → step s = .next t → Q t := by
  intro s t hs h
  unfold step at h
  split at h
  · cases h; exact effect _ _ (ticks s 1 hs) .still
  · next c rest _ =>
    have hp := pending s rest hs
    obtain he | ⟨d, he⟩ := exec_effect h
    · exact effect _ _ hp he
    · exact effect _ _ (ticks _ d hp) he

/-! ## The execution of a command -/

/-- What the execution of command `c` can do: one constructor for each kind of change, with the tests passed before it.
Reads and refusals only answer. -/
inductive Executed (c : Command) (s : State) : State → Prop
  | answered (st : Status) (result : List Byte) : Executed c s (s.answer c st result)
  | lowWater (result : List Byte) :
      Executed c s (State.answer c .ok result { s with pool := { s.pool with lowWater := s.pool.free } })
  | cleared (i : ContextId) (group : Byte) (result : List Byte) :
      Executed c s ((s.changeRecord i (Ctx.clearGroup group)).answer c .ok result)
  | deviceCleared (group : Byte) (result : List Byte) :
      Executed c s (State.answer c .ok result { s with device := s.device.clearGroup group })
  | alarmsCleared (named : AlarmSet) (result : List Byte) :
      Executed c s (State.answer c .ok result
        { s with alarms := { s.alarms with latched := clearedLatches s.alarms named } })
  | pendingWritten (bank : Bank) (free : s.tables.commit = .none)
      (range : s.tables.active.inRange → s.tables.pendingBank.inRange → bank.inRange) :
      Executed c s ((s.writePending bank).answer c .ok [])
  | committed (code : c.code = commitCode) (free : s.tables.commit = .none)
      (valid : s.tables.pendingBank.validate = none) :
      Executed c s (State.reservePlace c { s with tables := { s.tables with commit := .outstanding c.tag } })
  | settingsWritten (t : Settings) (range : t.inRange) : Executed c s ((s.writeSettings t).answer c .ok [])
  | straysCleared : Executed c s (State.answer c .ok [] { s with strays := [] })
  | flushed (n : Index) (valid : (s.entry n).valid = true) : Executed c s ((s.flushFlow n).answer c .ok [])
  | saved (code : c.code = saveCode) (idle : s.store.state = .idle) :
      Executed c s (State.reservePlace c { s with store :=
        { s.store.consult.setSlot s.store.consult.saveTarget.1 none with
          state := .writing s.store.consult.saveTarget.1
            (Image.form s.store.consult.saveTarget.2 s.tables.active s.tables.settings) } })
  | loadEmpty : Executed c s (State.answer c .storeEmpty [] { s with store := s.store.consult })
  | imageLoaded (slot : Bool) (image : Image) (free : s.tables.commit = .none)
      (newest : s.store.consult.newest = some (slot, image)) :
      Executed c s ((State.writeSettings image.settings
        (State.writePending image.bank { s with store := s.store.consult })).answer c .ok
          (encodeImage slot image.generation))
  | restartQueued (idle : s.store.state = .idle) : Executed c s
      { s.addPlace (.filled { s.agent.reply c .ok [] with restartsFull := true }) with
        agent := { (s.addPlace (.filled { s.agent.reply c .ok [] with restartsFull := true })).agent with
          restartWaiting := true } }
  | restarted : Executed c s (s.trafficRestart.answer c .ok [])

/-! ### Decoded operands are in range -/

theorem decodeLabel_ne {w : BitVec 16} {l : Label} (h : decodeLabel w = some l) : l ≠ managementLabel := by
  unfold decodeLabel at h
  split at h <;> cases h
  intro he
  have := congrArg BitVec.toNat he
  simp [managementLabel] at this
  omega

theorem decodePositive_ne {w v : BitVec 16} (h : decodePositive w = some v) : v ≠ 0 := by
  unfold decodePositive at h
  split at h <;> cases h
  assumption

theorem decodeQuota_range {w v : BitVec 16} (h : decodeQuota w = some v) : v ≠ 0 ∧ v.toNat ≤ 2048 := by
  unfold decodeQuota at h
  split at h <;> cases h
  next hw => exact ⟨fun e => hw (.inl e), Nat.le_of_not_lt fun e => hw (.inr e)⟩

/-- What an entry decodes to has every field in its range (R1, R203). -/
theorem decodeEntry_inRange {bytes : List Byte} {i : Nat} {e : Entry} (h : decodeEntry bytes i = some e) :
    e.inRange := by
  unfold decodeEntry at h
  split at h <;> cases h
  next hin hout _ _ hhold hquota _ _ _ =>
    exact ⟨decodeLabel_ne hin, decodeLabel_ne hout, decodePositive_ne hhold, decodeQuota_range hquota⟩

/-- What a Settings record decodes to has every field in its range (R11, R203). -/
theorem decodeSettings_inRange {bytes : List Byte} {t : Settings} (h : decodeSettings bytes = some t) : t.inRange := by
  simp only [decodeSettings] at h
  split at h
  · cases h
  · next ht =>
    split at h <;> cases h
    next hhold hlimit =>
      exact ⟨fun e => ht (.inl e), Nat.le_of_not_lt fun e => ht (.inr e), decodePositive_ne hhold,
        decodePositive_ne hlimit⟩

theorem decodeSlots_length {bytes : List Byte} : ∀ {n i : Nat} {slots : List Slot},
    decodeSlots bytes i n = some slots → slots.length = n
  | 0, i, slots, h => by cases h; rfl
  | n + 1, i, slots, h => by
    unfold decodeSlots at h
    split at h <;> cases h
    next hrest => exact congrArg (· + 1) (decodeSlots_length hrest)

theorem decodeHeader_range {length lend : Byte} {n : Nat} {l : Bool} (h : decodeHeader length lend = some (n, l)) :
    1 ≤ n ∧ n ≤ 128 := by
  unfold decodeHeader at h
  split at h
  · split at h <;> cases h
    assumption
  · cases h

theorem Bank.putEntry_inRange {bank : Bank} {e : Entry} (n : Index) (hb : bank.inRange) (he : e.inRange) :
    (bank.putEntry n e).inRange := by
  obtain ⟨hl, hr, hcal⟩ := hb
  refine ⟨by simpa [Bank.putEntry] using hl, fun x hx => ?_, hcal⟩
  obtain hx | rfl := List.mem_or_eq_of_mem_set hx
  · exact hr x hx
  · exact he

theorem Bank.putSlots_inRange {bank : Bank} {slots : List Slot} {first : Nat} (hb : bank.inRange)
    (h : first + slots.length ≤ 128) : (bank.putSlots first slots).inRange := by
  obtain ⟨hl, hr, hs, hcal⟩ := hb
  refine ⟨hl, hr, ?_, hcal⟩
  simp only [Bank.putSlots, List.length_append, List.length_take, List.length_drop, hs]
  omega

theorem slotRangeOk_iff (first count : Nat) : slotRangeOk first count = true ↔
    1 ≤ count ∧ count ≤ 32 ∧ first + count ≤ 128 := by
  simp [slotRangeOk, and_assoc]

/-! ### One command after the other -/

theorem runPutEntry_executed (c : Command) (s : State) : Executed c s (runPutEntry c s) := by
  unfold runPutEntry
  split
  · exact .answered _ _
  · split
    · next he => exact .pendingWritten _ ‹_› fun _ hp => Bank.putEntry_inRange _ hp (decodeEntry_inRange he)
    · exact .answered _ _

theorem runPutSlots_executed (c : Command) (s : State) : Executed c s (runPutSlots c s) := by
  unfold runPutSlots
  split
  · exact .answered _ _
  · split
    · next hr =>
      split
      · next hs =>
        refine .pendingWritten _ ‹_› fun _ hp => Bank.putSlots_inRange hp ?_
        rw [decodeSlots_length hs]
        exact ((slotRangeOk_iff _ _).mp hr).2.2
      · exact .answered _ _
    · exact .answered _ _

theorem runPutCalHeader_executed (c : Command) (s : State) : Executed c s (runPutCalHeader c s) := by
  unfold runPutCalHeader
  split
  · exact .answered _ _
  · split
    · next hd =>
      refine .pendingWritten _ ‹_› fun _ hp => ?_
      obtain ⟨hl, hr, hs, -⟩ := hp
      exact ⟨hl, hr, hs, decodeHeader_range hd⟩
    · exact .answered _ _

theorem runLoad_executed (c : Command) (s : State) : Executed c s (runLoad c s) := by
  unfold runLoad
  split
  · exact .answered _ _
  · split
    · exact .answered _ _
    · dsimp only
      split
      · exact .loadEmpty
      · exact .imageLoaded _ _ ‹_› ‹_›

theorem runCommit_executed {c : Command} (code : c.code = commitCode) (s : State) : Executed c s (runCommit c s) := by
  unfold runCommit
  split
  · exact .answered _ _
  · split
    · exact .answered _ _
    · exact .committed code ‹_› ‹_›

theorem runSave_executed {c : Command} (code : c.code = saveCode) (s : State) : Executed c s (runSave c s) := by
  unfold runSave
  split
  · exact .answered _ _
  · exact .saved code ‹_›

theorem runGetCounters_executed (c : Command) (s : State) : Executed c s (runGetCounters c s) := by
  unfold runGetCounters
  split
  · next i _ =>
    split
    · dsimp only
      split
      · have h := Executed.cleared (c := c) (s := s) i (c.arg 1) (s.countersResult i (c.arg 0) (c.arg 1))
        cases i <;> exact h
      · exact .answered _ _
    · exact .answered _ _
  · exact .answered _ _

theorem runGetEntry_executed (c : Command) (s : State) : Executed c s (runGetEntry c s) := by
  unfold runGetEntry
  split <;> exact .answered _ _

theorem runGetSlots_executed (c : Command) (s : State) : Executed c s (runGetSlots c s) := by
  unfold runGetSlots
  split
  · split <;> exact .answered _ _
  · exact .answered _ _

theorem runGetStatus_executed (c : Command) (s : State) : Executed c s (runGetStatus c s) := by
  unfold runGetStatus
  dsimp only
  split
  · exact .lowWater _
  · exact .answered _ _

theorem runGetDeviceCounters_executed (c : Command) (s : State) : Executed c s (runGetDeviceCounters c s) := by
  unfold runGetDeviceCounters
  dsimp only
  split
  · exact .deviceCleared _ _
  · exact .answered _ _

theorem runAbandon_executed (c : Command) (s : State) : Executed c s (runAbandon c s) := by
  unfold runAbandon
  split
  · exact .answered _ _
  · exact .pendingWritten _ ‹_› fun ha _ => ha

theorem runPutSettings_executed (c : Command) (s : State) : Executed c s (runPutSettings c s) := by
  unfold runPutSettings
  split
  · exact .settingsWritten _ (decodeSettings_inRange ‹_›)
  · exact .answered _ _

theorem runResetFlow_executed (c : Command) (s : State) : Executed c s (runResetFlow c s) := by
  unfold runResetFlow
  split
  · split
    · exact .flushed _ ‹_›
    · exact .answered _ _
  · exact .answered _ _

theorem runRestart_executed (c : Command) (s : State) :
    Executed c s (if c.arg 0 = restartFullKind then runRestartFull c s else runRestartTraffic c s) := by
  split
  · unfold runRestartFull
    split
    · exact .answered _ _
    · exact .restartQueued ‹_›
  · exact .restarted

/-- Every command's execution is one of the changes of the list. -/
theorem runCommand_executed (c : Command) (s : State) : Executed c s (runCommand c s) := by
  unfold runCommand
  refine iteInduction (fun _ => .answered _ _) fun _ => ?_
  refine iteInduction (fun _ => runGetStatus_executed c s) fun _ => ?_
  refine iteInduction (fun _ => runGetEntry_executed c s) fun _ => ?_
  refine iteInduction (fun _ => runPutEntry_executed c s) fun _ => ?_
  refine iteInduction (fun _ => runGetSlots_executed c s) fun _ => ?_
  refine iteInduction (fun _ => runPutSlots_executed c s) fun _ => ?_
  refine iteInduction (fun _ => runPutCalHeader_executed c s) fun _ => ?_
  refine iteInduction (fun code => runCommit_executed code s) fun _ => ?_
  refine iteInduction (fun _ => runAbandon_executed c s) fun _ => ?_
  refine iteInduction (fun _ => runGetCounters_executed c s) fun _ => ?_
  refine iteInduction (fun _ => runGetDeviceCounters_executed c s) fun _ => ?_
  refine iteInduction (fun _ => .answered _ _) fun _ => ?_
  refine iteInduction (fun _ => .alarmsCleared _ _) fun _ => ?_
  refine iteInduction (fun _ => .answered _ _) fun _ => ?_
  refine iteInduction (fun _ => runPutSettings_executed c s) fun _ => ?_
  refine iteInduction (fun _ => .answered _ _) fun _ => ?_
  refine iteInduction (fun _ => .straysCleared) fun _ => ?_
  refine iteInduction (fun _ => runResetFlow_executed c s) fun _ => ?_
  refine iteInduction (fun code => runSave_executed code s) fun _ => ?_
  refine iteInduction (fun _ => runLoad_executed c s) fun _ => ?_
  refine iteInduction (fun _ => runRestart_executed c s) fun _ => ?_
  exact .answered _ _

/-! ## The agent's turns -/

/-- What context M settling, the execution of a head, and the hand-over of a cell each keep, the agent's settling
keeps (R47, R154). -/
theorem State.settle_keeps {P : State → Prop} (settleM : ∀ s, P s → P s.settleM.2)
    (head : ∀ (c : Command) (rest : List Command) (s t : State), P s → s.agent.canExecute = true →
      s.agent.commands = c :: rest → Executed c { s with agent := { s.agent with commands := rest } } t → P t)
    (hand : ∀ b s, P s → P (s.handOverCell b)) :
    ∀ (fuel : Nat) (waiting : List Buffer) (s : State), P s → P (s.settle fuel waiting)
  | 0, _, _, hs => hs
  | fuel + 1, waiting, s, hs => by
    have hM := settleM s hs
    unfold State.settle
    dsimp only
    split
    · next hx =>
      refine State.settle_keeps settleM head hand fuel _ _ ?_
      unfold State.executeHead
      split
      · exact hM
      · next hc => exact head _ _ _ _ hM hx hc (runCommand_executed _ _)
    · split
      · exact hM
      · exact State.settle_keeps settleM head hand fuel _ _ (hand _ _ hM)

end Sys2Proof.Machine
end

section
/-! PROOFS. The frames of the operations that reach many blocks: what a change of contexts, rings, pool and alarms leaves
alone, what the agent's settling leaves alone, and what the receivers' operations leave alone. -/

namespace Sys2Proof.Machine

open Sys2Proof

/-! ## Contexts, rings, pool and alarms -/

/-- Only contexts, rings, pool, alarms and the notification-pending flag differ; no latch is lost and no notification
withdrawn (R159, R180, R181). -/
def State.onlyMerge (s t : State) : Prop :=
  t = { s with
        flows := t.flows, m := t.m, pool := t.pool, alarms := t.alarms
        sched := { s.sched with rings := t.sched.rings }
        agent := { s.agent with notifyPending := t.agent.notifyPending } } ∧
    (s.agent.notifyPending = true → t.agent.notifyPending = true) ∧
    ∀ k : AlarmKind, hasKind s.alarms.latched k = true → hasKind t.alarms.latched k = true

theorem State.onlyMerge_refl (s : State) : s.onlyMerge s := ⟨rfl, id, fun _ => id⟩

theorem State.onlyMerge_trans {s t u : State} (h : s.onlyMerge t) (h' : t.onlyMerge u) : s.onlyMerge u := by
  obtain ⟨e, hn, hl⟩ := h
  obtain ⟨e', hn', hl'⟩ := h'
  refine ⟨?_, hn' ∘ hn, fun k => hl' k ∘ hl k⟩
  rw [e] at e'
  exact e'

theorem State.onlyMerge_of_onlyAlarms {s t : State} (h : s.onlyAlarms t) : s.onlyMerge t := by
  obtain ⟨e, hn, hl⟩ := h
  refine ⟨?_, hn, hl⟩
  rw [e]

/-- What such a change leaves alone, field by field. -/
theorem State.onlyMerge_keeps {s t : State} (h : s.onlyMerge t) :
    t.pending = s.pending ∧ t.phase = s.phase ∧ t.timeBase = s.timeBase ∧ t.addrPins = s.addrPins ∧ t.rxA = s.rxA ∧
    t.rxB = s.rxB ∧ t.device = s.device ∧ t.strays = s.strays ∧ t.tables = s.tables ∧ t.out = s.out ∧ t.ret = s.ret ∧
    t.store = s.store ∧ t.sched.position = s.sched.position ∧ t.sched.slotUsed = s.sched.slotUsed ∧
    t.agent.commands = s.agent.commands ∧ t.agent.replies = s.agent.replies ∧ t.agent.strap = s.agent.strap ∧
    t.agent.restartWaiting = s.agent.restartWaiting ∧ t.agent.overrun = s.agent.overrun ∧
    t.agent.integrity = s.agent.integrity := by
  obtain ⟨e, -, -⟩ := h
  rw [e]
  exact ⟨rfl, rfl, rfl, rfl, rfl, rfl, rfl, rfl, rfl, rfl, rfl, rfl, rfl, rfl, rfl, rfl, rfl, rfl, rfl, rfl⟩

theorem State.latch_onlyMerge (k : AlarmKind) (s : State) : s.onlyMerge (s.latch k) :=
  State.onlyMerge_of_onlyAlarms (State.latch_onlyAlarms k s)

theorem State.latchAll_onlyMerge (ks : List AlarmKind) (s : State) : s.onlyMerge (s.latchAll ks) :=
  State.onlyMerge_of_onlyAlarms (State.latchAll_onlyAlarms ks s)

theorem State.reportFlows_onlyMerge (s : State) : s.onlyMerge s.reportFlows :=
  State.onlyMerge_of_onlyAlarms (State.reportFlows_onlyAlarms s)

theorem State.pool_onlyMerge (pool : Pool) (s : State) : s.onlyMerge { s with pool := pool } := ⟨rfl, id, fun _ => id⟩

theorem State.m_onlyMerge (m : Ctx) (s : State) : s.onlyMerge { s with m := m } := ⟨rfl, id, fun _ => id⟩

theorem State.setFlow_onlyMerge (n : Index) (c : Ctx) (s : State) : s.onlyMerge (s.setFlow n c) :=
  ⟨rfl, id, fun _ => id⟩

theorem State.setRing_onlyMerge (k : Fin 8) (ring : List Index) (s : State) : s.onlyMerge (s.setRing k ring) :=
  ⟨rfl, id, fun _ => id⟩

theorem State.allocBuffer_onlyAlarms (s : State) :
    State.onlyAlarms
      { s with pool := { free := s.pool.free - 1, lowWater := min s.pool.lowWater (s.pool.free - 1) } } s.allocBuffer :=
  State.report_onlyAlarms _ _ _

theorem State.allocBuffer_onlyMerge (s : State) : s.onlyMerge s.allocBuffer :=
  State.onlyMerge_trans (State.pool_onlyMerge _ s) (State.onlyMerge_of_onlyAlarms (State.allocBuffer_onlyAlarms s))

theorem State.freeBuffers_onlyMerge (n : Nat) (s : State) : s.onlyMerge (s.freeBuffers n) :=
  State.onlyMerge_trans (State.pool_onlyMerge _ s) (State.onlyMerge_of_onlyAlarms (State.freeBuffers_onlyAlarms n s))

theorem State.putFlow_onlyMerge (n : Index) (c : Ctx) (s : State) : s.onlyMerge (s.putFlow n c) := by
  unfold State.putFlow
  split
  · exact State.onlyMerge_trans (State.setFlow_onlyMerge n c s) (State.setRing_onlyMerge _ _ _)
  · exact State.setFlow_onlyMerge n c s

theorem State.settleFlow_onlyMerge (n : Index) (c : Ctx) (s : State) : s.onlyMerge (s.settleFlow n c) :=
  State.onlyMerge_trans (State.putFlow_onlyMerge n _ s)
    (State.onlyMerge_of_onlyAlarms (State.settleFlow_onlyAlarms n c s))

theorem State.changeFlow_onlyMerge (n : Index) (f : Ctx → Ctx) (s : State) : s.onlyMerge (s.changeFlow n f) :=
  State.onlyMerge_trans (State.settleFlow_onlyMerge n _ s) (State.reportFlows_onlyMerge _)

theorem State.forFlows_onlyMerge {f : Index → State → State} (h : ∀ n (t : State), t.onlyMerge (f n t)) (s : State) :
    s.onlyMerge (s.forFlows f) :=
  State.forFlows_induct (P := fun t => s.onlyMerge t) (fun n t ht => State.onlyMerge_trans ht (h n t)) s
    (State.onlyMerge_refl s)

theorem State.pathAbsent_onlyMerge (p : Path) (s : State) : s.onlyMerge (s.pathAbsent p) :=
  State.onlyMerge_trans (State.m_onlyMerge (s.m.markAbsent p) s)
    (State.onlyMerge_trans (State.forFlows_onlyMerge (fun n t => State.settleFlow_onlyMerge n _ t) _)
      (State.reportFlows_onlyMerge _))

theorem State.retimeAll_onlyMerge (s : State) : s.onlyMerge s.retimeAll :=
  State.onlyMerge_trans (State.m_onlyMerge (s.m.retime s.tables.settings.timeoutTicks s.timeBase) s)
    (State.onlyMerge_trans (State.forFlows_onlyMerge (fun n t => State.settleFlow_onlyMerge n _ t) _)
      (State.reportFlows_onlyMerge _))

theorem State.leftUp_onlyMerge (p : Path) (s : State) : s.onlyMerge (s.leftUp p) :=
  State.onlyMerge_trans (State.onlyMerge_of_onlyAlarms (State.report_onlyAlarms _ _ s)) (State.pathAbsent_onlyMerge p _)

theorem State.moveBuffers_onlyMerge (j : Judged) (s : State) : s.onlyMerge (s.moveBuffers j) := by
  unfold State.moveBuffers
  split
  · exact State.onlyMerge_trans (State.freeBuffers_onlyMerge _ s) (State.allocBuffer_onlyMerge _)
  · exact State.freeBuffers_onlyMerge _ s

theorem State.arriveFlow_onlyMerge (n : Index) (b : Buffer) (s : State) : s.onlyMerge (s.arriveFlow n b) :=
  State.onlyMerge_trans (State.moveBuffers_onlyMerge _ s) <|
    State.onlyMerge_trans (State.latchAll_onlyMerge _ _) <|
      State.onlyMerge_trans (State.settleFlow_onlyMerge n _ _) (State.reportFlows_onlyMerge _)

theorem State.flushFlow_onlyMerge (n : Index) (s : State) : s.onlyMerge (s.flushFlow n) :=
  State.onlyMerge_trans (State.setFlow_onlyMerge n _ s) <|
    State.onlyMerge_trans (State.freeBuffers_onlyMerge _ _) (State.reportFlows_onlyMerge _)

theorem State.settleM_onlyMerge (s : State) : s.onlyMerge s.settleM.2 := by
  unfold State.settleM
  dsimp only
  split
  · exact State.onlyMerge_trans (State.m_onlyMerge _ s) (State.latch_onlyMerge _ _)
  · exact State.m_onlyMerge _ s

/-! ## A commit -/

theorem State.moveRing_onlyMerge (n : Index) (old new : Fin 8) (s : State) : s.onlyMerge (s.moveRing n old new) := by
  unfold State.moveRing
  split
  · exact State.onlyMerge_refl s
  · exact State.onlyMerge_trans (State.setRing_onlyMerge _ _ s) (State.setRing_onlyMerge _ _ _)

theorem State.commitTurnsValid_onlyMerge (new : Entry) (n : Index) (s : State) :
    s.onlyMerge (s.commitTurnsValid new n) :=
  State.onlyMerge_trans (State.setFlow_onlyMerge n _ s) (State.moveRing_onlyMerge _ _ _ _)

theorem State.commitReleaseFlow_onlyMerge (old : Entry) (n : Index) (s : State) :
    s.onlyMerge (s.commitReleaseFlow old n) := by
  unfold State.commitReleaseFlow
  dsimp only
  split
  · exact State.onlyMerge_trans (State.putFlow_onlyMerge n _ s) (State.latch_onlyMerge _ _)
  · exact State.putFlow_onlyMerge n _ s

theorem State.commitTurnsInvalid_onlyMerge (old : Entry) (n : Index) (s : State) :
    s.onlyMerge (s.commitTurnsInvalid old n) :=
  State.onlyMerge_trans (State.commitReleaseFlow_onlyMerge old n s) (State.setFlow_onlyMerge n _ _)

theorem State.commitRelabels_onlyMerge (old new : Entry) (n : Index) (s : State) :
    s.onlyMerge (s.commitRelabels old new n) :=
  State.onlyMerge_trans (State.commitReleaseFlow_onlyMerge old n s) (State.commitTurnsValid_onlyMerge new n _)

theorem State.commitWindow_onlyMerge (old new : Entry) (n : Index) (s : State) :
    s.onlyMerge (s.commitWindow old new n) := by
  unfold State.commitWindow
  split
  · exact State.onlyMerge_trans (State.setFlow_onlyMerge n _ s) (State.freeBuffers_onlyMerge _ _)
  · exact State.onlyMerge_refl s

theorem State.commitPolicy_onlyMerge (old new : Entry) (n : Index) (s : State) :
    s.onlyMerge (s.commitPolicy old new n) := by
  unfold State.commitPolicy
  split
  · exact State.onlyMerge_refl s
  · exact State.setFlow_onlyMerge n _ s

theorem State.commitClass_onlyMerge (old new : Entry) (n : Index) (s : State) :
    s.onlyMerge (s.commitClass old new n) := by
  unfold State.commitClass
  split
  · exact State.onlyMerge_refl s
  · exact State.onlyMerge_trans (State.setFlow_onlyMerge n _ s) (State.moveRing_onlyMerge _ _ _ _)

/-- The three changes of one index that come before its deadline is looked at (R144 to R146, assumption 12). -/
def State.commitFields (old new : Entry) (n : Index) (s : State) : State :=
  ((s.commitWindow old new n).commitPolicy old new n).commitClass old new n

theorem State.commitSameLabel_eq (old new : Entry) (n : Index) (s : State) :
    s.commitSameLabel old new n = if old = new then s
      else (s.commitFields old new n).settleFlow n ((s.commitFields old new n).flow n) := rfl

theorem State.commitFields_onlyMerge (old new : Entry) (n : Index) (s : State) :
    s.onlyMerge (s.commitFields old new n) :=
  State.onlyMerge_trans (State.commitWindow_onlyMerge old new n s) <|
    State.onlyMerge_trans (State.commitPolicy_onlyMerge old new n _) (State.commitClass_onlyMerge old new n _)

theorem State.commitSameLabel_onlyMerge (old new : Entry) (n : Index) (s : State) :
    s.onlyMerge (s.commitSameLabel old new n) := by
  rw [State.commitSameLabel_eq]
  split
  · exact State.onlyMerge_refl s
  · exact State.onlyMerge_trans (State.commitFields_onlyMerge old new n s) (State.settleFlow_onlyMerge n _ _)

/-- What a commit does at an index, by the two entries there (R139). -/
theorem State.commitIndex_cases (oldBank : Bank) (n : Index) (s : State) :
    (oldBank.entry n).valid = false ∧ (s.entry n).valid = false ∧ s.commitIndex oldBank n = s ∨
    (oldBank.entry n).valid = false ∧ (s.entry n).valid = true ∧
      s.commitIndex oldBank n = s.commitTurnsValid (s.entry n) n ∨
    (oldBank.entry n).valid = true ∧ (s.entry n).valid = false ∧
      s.commitIndex oldBank n = s.commitTurnsInvalid (oldBank.entry n) n ∨
    (oldBank.entry n).valid = true ∧ (s.entry n).valid = true ∧ (oldBank.entry n).inLabel = (s.entry n).inLabel ∧
      s.commitIndex oldBank n = s.commitSameLabel (oldBank.entry n) (s.entry n) n ∨
    (oldBank.entry n).valid = true ∧ (s.entry n).valid = true ∧ (oldBank.entry n).inLabel ≠ (s.entry n).inLabel ∧
      s.commitIndex oldBank n = s.commitRelabels (oldBank.entry n) (s.entry n) n := by
  unfold State.commitIndex
  dsimp only
  split
  · exact .inl ⟨‹_›, ‹_›, rfl⟩
  · exact .inr (.inl ⟨‹_›, ‹_›, rfl⟩)
  · exact .inr (.inr (.inl ⟨‹_›, ‹_›, rfl⟩))
  · split
    · exact .inr (.inr (.inr (.inl ⟨‹_›, ‹_›, ‹_›, rfl⟩)))
    · exact .inr (.inr (.inr (.inr ⟨‹_›, ‹_›, ‹_›, rfl⟩)))

theorem State.commitIndex_onlyMerge (oldBank : Bank) (n : Index) (s : State) :
    s.onlyMerge (s.commitIndex oldBank n) := by
  obtain ⟨-, -, e⟩ | ⟨-, -, e⟩ | ⟨-, -, e⟩ | ⟨-, -, -, e⟩ | ⟨-, -, -, e⟩ := State.commitIndex_cases oldBank n s <;> rw [e]
  · exact State.onlyMerge_refl s
  · exact State.commitTurnsValid_onlyMerge _ n s
  · exact State.commitTurnsInvalid_onlyMerge _ n s
  · exact State.commitSameLabel_onlyMerge _ _ n s
  · exact State.commitRelabels_onlyMerge _ _ n s

/-- The tables of a commit that completes, its contexts and alarms not yet told (R138). -/
def State.commitTables (s : State) : State :=
  { s with tables := { s.tables with active := s.tables.pendingBank, commit := .none } }

/-- The contexts of a commit that completes (R139). -/
def State.commitContexts (s : State) : State :=
  (s.commitTables.forFlows (State.commitIndex s.tables.active)).reportFlows

theorem State.completeCommit_none {s : State} (h : s.tables.commit = .none) : s.completeCommit = s := by
  unfold State.completeCommit; rw [h]

theorem State.completeCommit_outstanding {s : State} {tag : Byte} (h : s.tables.commit = .outstanding tag) :
    s.completeCommit = s.commitContexts.fillReserved commitCode .ok [] := by
  unfold State.completeCommit; rw [h]; rfl

theorem State.commitContexts_onlyMerge (s : State) : s.commitTables.onlyMerge s.commitContexts :=
  State.onlyMerge_trans (State.forFlows_onlyMerge (fun n t => State.commitIndex_onlyMerge _ n t) _)
    (State.reportFlows_onlyMerge _)

/-! ## The agent -/

/-- The state with the Settings record written and nothing that follows from it. -/
def State.withSettings (t : Settings) (s : State) : State := { s with tables := { s.tables with settings := t } }

theorem State.writeSettings_cases (t : Settings) (s : State) :
    t.pathTimeout = s.tables.settings.pathTimeout ∧ s.writeSettings t = s.withSettings t ∨
    t.pathTimeout ≠ s.tables.settings.pathTimeout ∧ s.writeSettings t = (s.withSettings t).retimeAll := by
  unfold State.writeSettings
  dsimp only
  split
  · exact .inl ⟨‹_›, rfl⟩
  · exact .inr ⟨‹_›, rfl⟩

theorem State.writeSettings_onlyMerge (t : Settings) (s : State) : (s.withSettings t).onlyMerge (s.writeSettings t) := by
  obtain ⟨-, e⟩ | ⟨-, e⟩ := State.writeSettings_cases t s <;> rw [e]
  · exact State.onlyMerge_refl _
  · exact State.retimeAll_onlyMerge _

/-- What the execution of a command never touches: time, links and return transmitters. -/
theorem Executed.keeps {c : Command} {s t : State} (h : Executed c s t) :
    t.pending = s.pending ∧ t.phase = s.phase ∧ t.timeBase = s.timeBase ∧ t.addrPins = s.addrPins ∧ t.rxA = s.rxA ∧
    t.rxB = s.rxB ∧ t.ret = s.ret := by
  have links : ∀ {u v : State}, u.onlyMerge v → v.pending = u.pending ∧ v.phase = u.phase ∧ v.timeBase = u.timeBase ∧
      v.addrPins = u.addrPins ∧ v.rxA = u.rxA ∧ v.rxB = u.rxB ∧ v.ret = u.ret := fun h => by rw [h.1]; exact
    ⟨rfl, rfl, rfl, rfl, rfl, rfl, rfl⟩
  cases h with
  | settingsWritten u => have h := links (State.writeSettings_onlyMerge u s); exact h
  | imageLoaded slot image =>
    have h := links (State.writeSettings_onlyMerge image.settings
      (State.writePending image.bank { s with store := s.store.consult }))
    exact h
  | flushed n => have h := links (State.flushFlow_onlyMerge n s); exact h
  | cleared i => cases i <;> simp [State.changeRecord]
  | restarted => simp [State.trafficRestart]
  | answered | lowWater | deviceCleared | alarmsCleared | pendingWritten | committed | straysCleared | saved | loadEmpty
  | restartQueued => exact ⟨rfl, rfl, rfl, rfl, rfl, rfl, rfl⟩

/-- The agent's settling touches neither time, links nor return transmitters. -/
theorem State.settle_frame (fuel : Nat) (waiting : List Buffer) (s : State) :
    (s.settle fuel waiting).pending = s.pending ∧ (s.settle fuel waiting).phase = s.phase ∧
    (s.settle fuel waiting).timeBase = s.timeBase ∧ (s.settle fuel waiting).addrPins = s.addrPins ∧
    (s.settle fuel waiting).rxA = s.rxA ∧ (s.settle fuel waiting).rxB = s.rxB ∧
    (s.settle fuel waiting).ret = s.ret := by
  refine State.settle_keeps (P := fun t => t.pending = s.pending ∧ t.phase = s.phase ∧ t.timeBase = s.timeBase ∧
    t.addrPins = s.addrPins ∧ t.rxA = s.rxA ∧ t.rxB = s.rxB ∧ t.ret = s.ret) ?_ ?_ ?_ fuel waiting s
    ⟨rfl, rfl, rfl, rfl, rfl, rfl, rfl⟩
  · intro t ht; simpa using ht
  · intro c rest t u ht _ _ hx
    have := hx.keeps
    simp only [this]
    exact ht
  · intro b t ht; simpa using ht

@[simp] theorem State.settleAgent_frame (s : State) :
    s.settleAgent.pending = s.pending ∧ s.settleAgent.phase = s.phase ∧ s.settleAgent.timeBase = s.timeBase ∧
    s.settleAgent.addrPins = s.addrPins ∧ s.settleAgent.rxA = s.rxA ∧ s.settleAgent.rxB = s.rxB ∧
    s.settleAgent.ret = s.ret :=
  State.settle_frame _ _ s

@[simp] theorem State.arriveM_frame (b : Buffer) (s : State) :
    (s.arriveM b).pending = s.pending ∧ (s.arriveM b).phase = s.phase ∧ (s.arriveM b).timeBase = s.timeBase ∧
    (s.arriveM b).addrPins = s.addrPins ∧ (s.arriveM b).rxA = s.rxA ∧ (s.arriveM b).rxB = s.rxB ∧
    (s.arriveM b).ret = s.ret := by
  have h := State.onlyMerge_keeps (State.moveBuffers_onlyMerge
    (s.m.judge s.mParams s.tables.settings.skewTicks s.pool.free b) s)
  simp [State.arriveM, h]

/-! ## The links -/

@[simp] theorem State.unmatched_keeps (label : Label) (p : Path) (stamp : Time) (s : State) :
    (s.unmatched label p stamp).pending = s.pending ∧ (s.unmatched label p stamp).phase = s.phase ∧
    (s.unmatched label p stamp).timeBase = s.timeBase ∧ (s.unmatched label p stamp).addrPins = s.addrPins ∧
    (s.unmatched label p stamp).rxA = s.rxA ∧ (s.unmatched label p stamp).rxB = s.rxB ∧
    (s.unmatched label p stamp).tables = s.tables ∧ (s.unmatched label p stamp).flows = s.flows ∧
    (s.unmatched label p stamp).m = s.m ∧ (s.unmatched label p stamp).pool = s.pool ∧
    (s.unmatched label p stamp).sched = s.sched ∧ (s.unmatched label p stamp).out = s.out ∧
    (s.unmatched label p stamp).ret = s.ret ∧ (s.unmatched label p stamp).agent = s.agent ∧
    (s.unmatched label p stamp).store = s.store ∧ (s.unmatched label p stamp).alarms = s.alarms := by
  refine ⟨?_, ?_, ?_, ?_, ?_, ?_, ?_, ?_, ?_, ?_, ?_, ?_, ?_, ?_, ?_, ?_⟩ <;>
    (unfold State.unmatched; dsimp only; split <;> simp)

/-- What the Classifier can do with a delivered cell (R13, R14). -/
theorem State.classify_cases (b : Buffer) (s : State) :
    b.cell.label = managementLabel ∧ s.classify b = s.arriveM b ∨
    b.cell.label ≠ managementLabel ∧ s.tables.active.lookup b.cell.label = none ∧
      s.classify b = s.unmatched b.cell.label b.path b.stamp ∨
    (∃ n, b.cell.label ≠ managementLabel ∧ s.tables.active.lookup b.cell.label = some n ∧
      (s.entry n).policy.uses b.path = true ∧ s.classify b = s.arriveFlow n b) ∨
    (∃ n, b.cell.label ≠ managementLabel ∧ s.tables.active.lookup b.cell.label = some n ∧
      (s.entry n).policy.uses b.path = false ∧
      s.classify b = s.countPath b.path (fun k => { k with ignoredPath := k.ignoredPath + 1 })) := by
  unfold State.classify
  split
  · exact .inl ⟨‹_›, rfl⟩
  · split
    · exact .inr (.inl ⟨‹_›, ‹_›, rfl⟩)
    · next n _ =>
      split
      · exact .inr (.inr (.inl ⟨n, ‹_›, ‹_›, ‹_›, rfl⟩))
      · exact .inr (.inr (.inr ⟨n, ‹_›, ‹_›, Bool.eq_false_iff.mpr ‹_›, rfl⟩))

@[simp] theorem State.classify_frame (b : Buffer) (s : State) :
    (s.classify b).pending = s.pending ∧ (s.classify b).phase = s.phase ∧ (s.classify b).timeBase = s.timeBase ∧
    (s.classify b).addrPins = s.addrPins ∧ (s.classify b).rxA = s.rxA ∧ (s.classify b).rxB = s.rxB ∧
    (s.classify b).ret = s.ret := by
  obtain ⟨-, e⟩ | ⟨-, -, e⟩ | ⟨n, -, -, -, e⟩ | ⟨n, -, -, -, e⟩ := State.classify_cases b s <;> rw [e]
  · simp
  · simp
  · have h := State.onlyMerge_keeps (State.arriveFlow_onlyMerge n b s); simp [h]
  · simp

@[simp] theorem State.takeDelivered_none (s : State) : State.takeDelivered none s = s := rfl

@[simp] theorem State.takeDelivered_some (b : Buffer) (s : State) : State.takeDelivered (some b) s = s.classify b := rfl

@[simp] theorem State.takeDelivered_frame (b : Option Buffer) (s : State) :
    (State.takeDelivered b s).pending = s.pending ∧ (State.takeDelivered b s).phase = s.phase ∧
    (State.takeDelivered b s).timeBase = s.timeBase ∧ (State.takeDelivered b s).addrPins = s.addrPins ∧
    (State.takeDelivered b s).rxA = s.rxA ∧ (State.takeDelivered b s).rxB = s.rxB ∧
    (State.takeDelivered b s).ret = s.ret := by
  cases b <;> simp

@[simp] theorem State.payloadError_keeps (p : Path) (kind : Kind) (s : State) :
    (s.payloadError p kind).pending = s.pending ∧ (s.payloadError p kind).phase = s.phase ∧
    (s.payloadError p kind).timeBase = s.timeBase ∧ (s.payloadError p kind).addrPins = s.addrPins ∧
    (s.payloadError p kind).rxA = s.rxA ∧ (s.payloadError p kind).rxB = s.rxB ∧
    (s.payloadError p kind).strays = s.strays ∧ (s.payloadError p kind).tables = s.tables ∧
    (s.payloadError p kind).flows = s.flows ∧ (s.payloadError p kind).m = s.m ∧
    (s.payloadError p kind).pool = s.pool ∧ (s.payloadError p kind).sched = s.sched ∧
    (s.payloadError p kind).out = s.out ∧ (s.payloadError p kind).ret = s.ret ∧
    (s.payloadError p kind).store = s.store ∧ (s.payloadError p kind).alarms = s.alarms := by
  refine ⟨?_, ?_, ?_, ?_, ?_, ?_, ?_, ?_, ?_, ?_, ?_, ?_, ?_, ?_, ?_, ?_⟩ <;>
    (unfold State.payloadError; dsimp only; split <;> simp)

@[simp] theorem State.payloadError_agent (p : Path) (kind : Kind) (s : State) :
    (s.payloadError p kind).agent.commands = s.agent.commands ∧
    (s.payloadError p kind).agent.replies = s.agent.replies ∧
    (s.payloadError p kind).agent.restartWaiting = s.agent.restartWaiting := by
  refine ⟨?_, ?_, ?_⟩ <;> (unfold State.payloadError; dsimp only; split <;> simp)

/-- The two ends of a cell in reception: a good payload is delivered, another is discarded and counted (R119, R120,
R122). -/
theorem State.lastByte_cases (p : Path) (h : Header) (payload check : List Byte) (s : State) :
    (∃ b, b.path = p ∧ b.cell.label = h.label ∧
      s.lastByte p h payload check = (some b, s.setRx p { s.rx p with reception := none })) ∨
    s.lastByte p h payload check = (none, (s.setRx p { s.rx p with reception := none }).payloadError p h.kind) := by
  unfold State.lastByte
  dsimp only
  split
  · exact .inl ⟨_, rfl, rfl, rfl⟩
  · exact .inr rfl

/-- What a signal loss finds: no cell, a cell whose last byte it carries, or a cell that is cut (R121). -/
theorem State.lastOrCut_cases (p : Path) (last : Option (List Byte × List Byte)) (s : State) :
    (s.rx p).reception = none ∧ s.lastOrCut p last = (none, s) ∨
    (∃ h payload check, (s.rx p).reception = some h ∧ last = some (payload, check) ∧
      s.lastOrCut p last = s.lastByte p h payload check) ∨
    (∃ h, (s.rx p).reception = some h ∧ last = none ∧
      s.lastOrCut p last = (none, s.countPath p (fun k => { k with cellsCut := k.cellsCut + 1 }))) := by
  unfold State.lastOrCut
  split
  · exact .inl ⟨‹_›, rfl⟩
  · exact .inr (.inl ⟨_, _, _, ‹_›, rfl, rfl⟩)
  · exact .inr (.inr ⟨_, ‹_›, rfl, rfl⟩)

/-- What judging a header in UP can do: nothing outside the working phase; at work its cell is counted, and in reception
only when kind and label agree (R117, R118, R123). -/
theorem State.judgeHeader_cases (p : Path) (header : BitVec 48) (s : State) :
    s.phase ≠ .active ∧ s.judgeHeader p header = s ∨
    s.phase = .active ∧ ((∃ f, s.judgeHeader p header = s.countPath p f) ∨
      ∃ h f, s.judgeHeader p header = (s.countPath p f).setRx p { s.rx p with reception := some h }) := by
  have twice : ∀ f g : PathCounters → PathCounters, ∃ k, (s.countPath p f).countPath p g = s.countPath p k :=
    fun f g => ⟨g ∘ f, by cases p <;> rfl⟩
  have same : ∀ f : PathCounters → PathCounters, (s.countPath p f).rx p = s.rx p := fun f => by cases p <;> rfl
  unfold State.judgeHeader
  split
  · refine .inr ⟨‹_›, ?_⟩
    dsimp only
    split
    · exact .inl (twice _ _)
    · split
      · exact .inl (twice _ _)
      · split
        · exact .inl ⟨_, rfl⟩
        · exact .inl ⟨_, rfl⟩
        · exact .inr ⟨_, _, by rw [same]⟩
  · exact .inl ⟨‹_›, rfl⟩

/-! ## The round boundary and Out -/

/-- The position back at 0, no cell time begun there (R81). -/
def State.rewound (s : State) : State := { s with sched := { s.sched with position := 0, slotUsed := false } }

theorem State.roundBoundary_cases (s : State) :
    s.tables.commit = .none ∧ s.roundBoundary = s.rewound ∨
    ∃ tag, s.tables.commit = .outstanding tag ∧
      s.roundBoundary = s.rewound.commitContexts.fillReserved commitCode .ok [] := by
  cases h : s.tables.commit with
  | none => exact .inl ⟨rfl, State.completeCommit_none (s := s.rewound) h⟩
  | outstanding tag => exact .inr ⟨tag, rfl, State.completeCommit_outstanding (s := s.rewound) h⟩

/-- The position one further, the cell time there not begun yet (R81). -/
def State.forward (s : State) : State := { s with sched := { s.sched with position := s.sched.position + 1 } }

theorem State.advancePosition_cases (s : State) :
    s.boundaryDue = true ∧ s.advancePosition = s.roundBoundary ∨
    s.boundaryDue = false ∧ s.sched.slotUsed = true ∧ s.advancePosition = s.forward ∨
    s.sched.slotUsed = false ∧ s.advancePosition = s := by
  unfold State.advancePosition
  split
  · exact .inl ⟨‹_›, rfl⟩
  · split
    · exact .inr (.inl ⟨Bool.eq_false_iff.mpr ‹_›, ‹_›, rfl⟩)
    · exact .inr (.inr ⟨Bool.eq_false_iff.mpr ‹_›, rfl⟩)

/-- The state a served class leaves: the oldest cell `b` of the flow `n` at the head is on Out (R85, R92). -/
def State.served (k : Fin 8) (n : Index) (others : List Index) (b : Buffer) (rest : List Buffer) (s : State) : State :=
  { (s.setFlow n ((s.flow n).taken rest (saturates (s.entry n) s.timeBase b))).setRing k
      (if rest.isEmpty then others else others ++ [n]) with
    out := { buffer := some b, line := some (outCell (s.entry n) s.timeBase b).wire } }

/-- What the start of a cell time does with the slot: an idle cell, a ring that names a flow with nothing queued losing it
(assumption 25), or the oldest cell of the flow at a ring's head (R87 to R89). -/
theorem State.useSlot_cases (s : State) :
    let u : State := { s with sched := { s.sched with slotUsed := true } }
    s.useSlot = u.sendIdle ∨
    (∃ k n others, u.ring k = n :: others ∧ (u.flow n).queue = [] ∧ s.useSlot = State.sendIdle (u.setRing k others)) ∨
    ∃ k n others b rest, u.ring k = n :: others ∧ (u.flow n).queue = b :: rest ∧
      s.useSlot = u.served k n others b rest := by
  intro u
  unfold State.useSlot
  dsimp only
  split
  · next k _ =>
    unfold State.serveClass
    split
    · exact .inl rfl
    · split
      · exact .inr (.inl ⟨k, _, _, ‹_›, ‹_›, rfl⟩)
      · exact .inr (.inr ⟨k, _, _, _, _, ‹_›, ‹_›, rfl⟩)
  · exact .inl rfl

/-- A round boundary leaves the blocks that a commit does not reach. -/
@[simp] theorem State.roundBoundary_frame (s : State) :
    s.roundBoundary.pending = s.pending ∧ s.roundBoundary.phase = s.phase ∧ s.roundBoundary.timeBase = s.timeBase ∧
    s.roundBoundary.addrPins = s.addrPins ∧ s.roundBoundary.rxA = s.rxA ∧ s.roundBoundary.rxB = s.rxB ∧
    s.roundBoundary.device = s.device ∧ s.roundBoundary.strays = s.strays ∧ s.roundBoundary.out = s.out ∧
    s.roundBoundary.ret = s.ret ∧ s.roundBoundary.store = s.store := by
  obtain ⟨-, e⟩ | ⟨tag, -, e⟩ := State.roundBoundary_cases s <;> rw [e]
  · exact ⟨rfl, rfl, rfl, rfl, rfl, rfl, rfl, rfl, rfl, rfl, rfl⟩
  · have h := State.commitContexts_onlyMerge s.rewound
    obtain ⟨h1, h2, h3, h4, h5, h6, h7, h8, -, h9, h10, h11, -⟩ := State.onlyMerge_keeps h
    simp only [State.fillReserved_keeps, h1, h2, h3, h4, h5, h6, h7, h8, h9, h10, h11]
    exact ⟨rfl, rfl, rfl, rfl, rfl, rfl, rfl, rfl, rfl, rfl, rfl⟩

@[simp] theorem State.advancePosition_frame (s : State) :
    s.advancePosition.pending = s.pending ∧ s.advancePosition.phase = s.phase ∧
    s.advancePosition.timeBase = s.timeBase ∧ s.advancePosition.addrPins = s.addrPins ∧
    s.advancePosition.rxA = s.rxA ∧ s.advancePosition.rxB = s.rxB ∧ s.advancePosition.device = s.device ∧
    s.advancePosition.strays = s.strays ∧ s.advancePosition.out = s.out ∧ s.advancePosition.ret = s.ret ∧
    s.advancePosition.store = s.store := by
  obtain ⟨-, e⟩ | ⟨-, -, e⟩ | ⟨-, e⟩ := State.advancePosition_cases s <;> rw [e]
  · exact State.roundBoundary_frame s
  · exact ⟨rfl, rfl, rfl, rfl, rfl, rfl, rfl, rfl, rfl, rfl, rfl⟩
  · exact ⟨rfl, rfl, rfl, rfl, rfl, rfl, rfl, rfl, rfl, rfl, rfl⟩

/-- The start of a cell time changes the transmitter, the rings, the served flow and the count of idle cells. -/
@[simp] theorem State.useSlot_frame (s : State) :
    s.useSlot.pending = s.pending ∧ s.useSlot.phase = s.phase ∧ s.useSlot.timeBase = s.timeBase ∧
    s.useSlot.addrPins = s.addrPins ∧ s.useSlot.rxA = s.rxA ∧ s.useSlot.rxB = s.rxB ∧ s.useSlot.strays = s.strays ∧
    s.useSlot.tables = s.tables ∧ s.useSlot.m = s.m ∧ s.useSlot.pool = s.pool ∧ s.useSlot.ret = s.ret ∧
    s.useSlot.agent = s.agent ∧ s.useSlot.store = s.store ∧ s.useSlot.alarms = s.alarms ∧
    s.useSlot.sched.position = s.sched.position := by
  obtain e | ⟨k, n, others, -, -, e⟩ | ⟨k, n, others, b, rest, -, -, e⟩ := State.useSlot_cases s <;> rw [e] <;>
    exact ⟨rfl, rfl, rfl, rfl, rfl, rfl, rfl, rfl, rfl, rfl, rfl, rfl, rfl, rfl, rfl⟩

/-! ## The load instant -/

/-- The bank and the Settings the load instant takes: the newest valid image's, or the defaults (R12, R196). -/
def Store.loadedBank (store : Store) : Bank := match store.newest with | some (_, i) => i.bank | none => Bank.default

def Store.loadedSettings (store : Store) : Settings :=
  match store.newest with | some (_, i) => i.settings | none => Settings.default

/-- The load instant but for the alarms and the notification-pending flag. -/
def State.loadedTables (s : State) : State :=
  { s with
    phase := .active
    tables := { active := s.store.consult.loadedBank, pendingBank := s.store.consult.loadedBank,
                settings := s.store.consult.loadedSettings, commit := .none }
    flows := s.store.consult.loadedBank.freshFlows
    store := s.store.consult }

/-- The alarms as the load instant leaves them: STORE_EMPTY latched on an empty store, the flow conditions reported. -/
def State.loadReported (s : State) : State :=
  State.reportFlows
    (if s.store.consult.newest.isNone then s.loadedTables.latch .storeEmpty else s.loadedTables)

theorem State.loadInstant_eq (s : State) :
    s.loadInstant =
      if (s.loadReported.alarms.latched &&& s.store.consult.loadedSettings.notifyMask) != 0 then
        { s.loadReported with agent := { s.loadReported.agent with notifyPending := true } }
      else s.loadReported := rfl

theorem State.loadInstant_onlyAlarms (s : State) : s.loadedTables.onlyAlarms s.loadInstant := by
  have hr : s.loadedTables.onlyAlarms s.loadReported := by
    unfold State.loadReported
    split
    · exact State.onlyAlarms_trans (State.latch_onlyAlarms _ _) (State.reportFlows_onlyAlarms _)
    · exact State.reportFlows_onlyAlarms _
  rw [State.loadInstant_eq]
  split
  · exact State.onlyAlarms_trans hr ⟨rfl, fun _ => rfl, fun _ => id⟩
  · exact hr

/-! ## The agent's own steps -/

/-- A write that ends: the store and the reserved place, the alarms not yet told (R191). -/
def State.writeEnded (ok slot : Bool) (image : Image) (s : State) : State :=
  State.fillReserved saveCode (if ok then .ok else .storeFailed) (encodeImage slot image.generation)
    { s with store := { s.store.setSlot slot (if ok then some image else none) with state := .idle } }

theorem State.endWrite_eq (ok slot : Bool) (image : Image) (s : State) :
    s.endWrite ok slot image =
      if ok then s.writeEnded ok slot image else (s.writeEnded ok slot image).latch .storeFailed := rfl

theorem State.endWrite_onlyAlarms (ok slot : Bool) (image : Image) (s : State) :
    (s.writeEnded ok slot image).onlyAlarms (s.endWrite ok slot image) := by
  rw [State.endWrite_eq]
  split
  · exact State.onlyAlarms_refl _
  · exact State.latch_onlyAlarms _ _

/-- What a return cell time at work takes: nothing, the RESTART FULL reply, or another one (R128, R199). -/
theorem State.returnTake_cases (addr : BitVec 5) (s : State) :
    takeFilled s.agent.replies = none ∧ s.returnTake addr = s.returnIdle ∨
    ∃ r left, takeFilled s.agent.replies = some (r, left) ∧
      (r.restartsFull = true ∧
          s.returnTake addr = ((s.sendReply r left).fullReset .starting).releaseReset addr ∨
        r.restartsFull = false ∧ s.returnTake addr = (s.sendReply r left).settleAgent) := by
  unfold State.returnTake
  split
  · exact .inl ⟨‹_›, rfl⟩
  · next r left _ =>
    refine .inr ⟨r, left, ‹_›, ?_⟩
    dsimp only
    split
    · exact .inl ⟨‹_›, rfl⟩
    · exact .inr ⟨Bool.eq_false_iff.mpr ‹_›, rfl⟩

end Sys2Proof.Machine
end

section
/-! PROOFS. The receivers' law (R112 to R117): each receiver fits its phase, and every effect leaves both fitting. -/

namespace Sys2Proof.Machine

open Sys2Proof

/-- A receiver is lawful and, while the reset is released, out of DOWN when its line carries signal (R112, R113). -/
def Receiver.fits (counting : Bool) (r : Receiver) : Prop :=
  r.lawful ∧ (counting = true → r.signal = true → r.state ≠ .down)

theorem State.receiversLaw_iff (s : State) : s.receiversLaw ↔ ∀ p, (s.rx p).fits s.phase.counting := by
  constructor
  · rintro ⟨ha, hb, ca, cb⟩ (_ | _)
    · exact ⟨ha, ca⟩
    · exact ⟨hb, cb⟩
  · intro h
    exact ⟨(h .a).1, (h .b).1, (h .a).2, (h .b).2⟩

theorem State.rx_setRx (p q : Path) (r : Receiver) (s : State) : (s.setRx p r).rx q = if q = p then r else s.rx q := by
  cases p <;> cases q <;> rfl

theorem State.rx_of_rxA_rxB {s t : State} (ha : t.rxA = s.rxA) (hb : t.rxB = s.rxB) (p : Path) : t.rx p = s.rx p := by
  cases p
  · exact ha
  · exact hb

/-- Whatever leaves both receivers and the phase leaves the law. -/
theorem State.receiversLaw_of_eq {s t : State} (h : s.receiversLaw) (hp : t.phase = s.phase) (ha : t.rxA = s.rxA)
    (hb : t.rxB = s.rxB) : t.receiversLaw := by
  unfold State.receiversLaw
  rw [hp, ha, hb]
  exact h

theorem State.receiversLaw_setRx {s : State} {p : Path} {r : Receiver} (h : s.receiversLaw)
    (hr : r.fits s.phase.counting) : (s.setRx p r).receiversLaw := by
  rw [State.receiversLaw_iff] at h ⊢
  intro q
  rw [State.rx_setRx, (State.setRx_keeps p r s).2.1]
  split
  · exact hr
  · exact h q

/-- A change of contexts, rings, pool and alarms leaves the receivers. -/
theorem State.receiversLaw_onlyMerge {s t : State} (h : s.receiversLaw) (hm : s.onlyMerge t) : t.receiversLaw := by
  obtain ⟨-, hphase, -, -, hA, hB, -⟩ := State.onlyMerge_keeps hm
  exact State.receiversLaw_of_eq h hphase hA hB

/-! ## The receivers an effect leaves -/

theorem Receiver.down_fits (signal counting : Bool) (h : counting = true → signal = false) :
    (Receiver.down signal).fits counting := by
  refine ⟨?_, fun hc hs => ?_⟩
  · simp [Receiver.lawful, Receiver.down, Config.huntHeaders]
  · simp [Receiver.down, h hc] at hs

/-- A released receiver leaves DOWN where there is signal (R112, R195). -/
theorem Receiver.released_fits {r : Receiver} (h : r.lawful) : r.released.fits true := by
  obtain ⟨hb, hp, hf, hu, hr, hs, hl, hn⟩ := h
  unfold Receiver.released
  split
  · next hd =>
    simp only [Bool.and_eq_true, decide_eq_true_eq] at hd
    obtain ⟨hsig, hdown⟩ := hd
    refine ⟨⟨by simpa [hdown] using hb, hp, hf, fun _ => hu (by simp [hdown]), fun e => ?_, fun _ => hsig, hl,
      fun _ => rfl⟩, fun _ _ => by simp⟩
    simpa [hdown] using hr e
  · next hd => exact ⟨⟨hb, hp, hf, hu, hr, hs, hl, hn⟩, fun _ hsig hdown => hd (by simp [hsig, hdown])⟩

/-- The line circuit reports signal: still lawful. -/
theorem Receiver.lawful_signal {r : Receiver} (h : r.lawful) : Receiver.lawful { r with signal := true } := by
  obtain ⟨hb, hp, hf, hu, hr, -, hl, hn⟩ := h
  exact ⟨hb, hp, hf, hu, hr, fun _ => rfl, hl, hn⟩

/-- A header judged keeps the law when its receiver is in UP (R117). -/
theorem State.receiversLaw_judgeHeader {s : State} {p : Path} (header : BitVec 48) (h : s.receiversLaw)
    (hup : (s.rx p).state = .up) : (s.judgeHeader p header).receiversLaw := by
  have counted : ∀ f, (s.countPath p f).receiversLaw := fun f => State.receiversLaw_of_eq h (by simp) (by simp) (by simp)
  obtain ⟨-, e⟩ | ⟨-, ⟨f, e⟩ | ⟨hd, f, e⟩⟩ := State.judgeHeader_cases p header s <;> rw [e]
  · exact h
  · exact counted f
  · refine State.receiversLaw_setRx (counted f) ?_
    obtain ⟨⟨hb, hp, hf, hu, -, hs, hl, hn⟩, hc⟩ := (State.receiversLaw_iff s).mp h p
    exact ⟨⟨hb, hp, hf, hu, fun _ => hup, hs, hl, hn⟩, by simpa using hc⟩

theorem afterFailing_fits (header : BitVec 48) : (afterFailing header).length ≤ 5 := (afterFailing_length header).le

/-- A header in CHECK leaves a lawful receiver (R114, R115). -/
theorem State.receiversLaw_headerInCheck {s : State} {p : Path} (header : BitVec 48) (h : s.receiversLaw)
    (hcheck : (s.rx p).state = .check) : (s.headerInCheck p header).receiversLaw := by
  obtain ⟨⟨hb, hp, hf, hu, hr, hs, hl, hn⟩, hc⟩ := (State.receiversLaw_iff s).mp h p
  have hsome : (s.rx p).boundary.isSome = true := hb.mpr (.inl hcheck)
  have hfail : (s.rx p).failCount = 0 := hu (by simp [hcheck])
  have hsig : (s.rx p).signal = true := hs (by simp [hcheck])
  have hrecent : (s.rx p).recent = [] := Classical.byContradiction fun e => by simpa [hcheck] using hn e
  have hrec : (s.rx p).reception.isSome = false := Bool.eq_false_iff.mpr fun e => by simpa [hcheck] using hr e
  unfold State.headerInCheck
  dsimp only
  split
  · split
    · unfold State.enterUp
      dsimp only
      refine State.receiversLaw_judgeHeader header ?_ ?_
      · refine State.receiversLaw_of_eq (s := s.setRx p { s.rx p with
          state := .up, boundary := (s.rx p).nextBoundary, passCount := Config.upHeaders, failCount := 0,
          reception := none }) (State.receiversLaw_setRx h ?_) (by simp) (by simp) (by simp)
        refine ⟨⟨?_, by simp, by simp [Config.huntHeaders], by simp, by simp, fun _ => hsig, by simp [hrecent],
          fun e => absurd hrecent e⟩, by simp⟩
        simpa [Receiver.nextBoundary] using hsome
      · rw [State.rx_of_rxA_rxB (s := s.setRx p { s.rx p with
          state := .up, boundary := (s.rx p).nextBoundary, passCount := Config.upHeaders, failCount := 0,
          reception := none }) (by simp) (by simp), State.setRx_rx]
    · next hlt =>
      refine State.receiversLaw_setRx h ⟨⟨?_, by simp only; omega, hf, hu, hr, hs, hl, hn⟩, hc⟩
      simpa [Receiver.nextBoundary, hcheck] using hsome
  · refine State.receiversLaw_setRx h ⟨⟨by simp, by simp, hf, fun _ => hfail, by simp [hrec], fun _ => hsig,
      afterFailing_fits header, fun _ => rfl⟩, by simp⟩

/-- A header in UP leaves a lawful receiver (R116, R117). -/
theorem State.receiversLaw_headerInUp {s : State} {p : Path} (header : BitVec 48) (h : s.receiversLaw)
    (hup : (s.rx p).state = .up) : (s.headerInUp p header).receiversLaw := by
  obtain ⟨⟨hb, hp, hf, hu, hr, hs, hl, hn⟩, hc⟩ := (State.receiversLaw_iff s).mp h p
  have hsome : (s.rx p).boundary.isSome = true := hb.mpr (.inr hup)
  have hsig : (s.rx p).signal = true := hs (by simp [hup])
  have hrecent : (s.rx p).recent = [] := Classical.byContradiction fun e => by simpa [hup] using hn e
  have moved : ∀ k, k < Config.huntHeaders → Receiver.fits s.phase.counting
      { s.rx p with boundary := (s.rx p).nextBoundary, reception := none, failCount := k } := fun k hk =>
    ⟨⟨by simpa [Receiver.nextBoundary, hup] using hsome, hp, hk, fun e => absurd hup e, by simp, hs, hl, hn⟩, hc⟩
  have counted : ∀ k, k < Config.huntHeaders → ((s.setRx p { s.rx p with
      boundary := (s.rx p).nextBoundary, reception := none, failCount := k }).judgeHeader p header).receiversLaw :=
    fun k hk => State.receiversLaw_judgeHeader header (State.receiversLaw_setRx h (moved k hk))
      (by rw [State.setRx_rx]; exact hup)
  unfold State.headerInUp
  dsimp only
  split
  · exact counted 0 (by decide)
  · split
    · exact counted _ ‹_›
    · refine State.receiversLaw_onlyMerge (State.receiversLaw_setRx (counted (s.rx p).failCount hf) ?_)
        (State.leftUp_onlyMerge p _)
      exact ⟨⟨by simp, hp, by simp [Config.huntHeaders], by simp, by simp, fun _ => hsig, afterFailing_fits header,
        fun _ => rfl⟩, by simp⟩

/-- The reception of a cell ends: its receiver stays lawful. -/
theorem State.receiversLaw_ended {s : State} (p : Path) (h : s.receiversLaw) :
    (s.setRx p { s.rx p with reception := none }).receiversLaw := by
  obtain ⟨⟨hb, hp, hf, hu, -, hs, hl, hn⟩, hc⟩ := (State.receiversLaw_iff s).mp h p
  exact State.receiversLaw_setRx h ⟨⟨hb, hp, hf, hu, by simp, hs, hl, hn⟩, hc⟩

theorem State.receiversLaw_lastByte {s : State} (p : Path) (hd : Header) (payload check : List Byte)
    (h : s.receiversLaw) : (s.lastByte p hd payload check).2.receiversLaw := by
  obtain ⟨b, -, -, e⟩ | e := State.lastByte_cases p hd payload check s <;> rw [e]
  · exact State.receiversLaw_ended p h
  · exact State.receiversLaw_of_eq (State.receiversLaw_ended p h) (by simp) (by simp) (by simp)

theorem State.receiversLaw_lastOrCut {s : State} (p : Path) (last : Option (List Byte × List Byte))
    (h : s.receiversLaw) : (s.lastOrCut p last).2.receiversLaw := by
  obtain ⟨-, e⟩ | ⟨hd, payload, check, -, -, e⟩ | ⟨hd, -, -, e⟩ := State.lastOrCut_cases p last s <;> rw [e]
  · exact h
  · exact State.receiversLaw_lastByte p hd payload check h
  · exact State.receiversLaw_of_eq h (by simp) (by simp) (by simp)

/-- A loss of signal takes a receiver to DOWN. -/
theorem State.receiversLaw_down {s : State} (p : Path) (h : s.receiversLaw) :
    (s.setRx p (Receiver.down false)).receiversLaw :=
  State.receiversLaw_setRx h (Receiver.down_fits false _ fun _ => rfl)

/-- What a take on the return directions does to the receivers: nothing, or a reset applied and released (R199). -/
theorem State.receiversLaw_returnTake {s : State} (addr : BitVec 5) (h : s.receiversLaw) :
    (s.returnTake addr).receiversLaw := by
  obtain ⟨-, e⟩ | ⟨r, left, -, ⟨-, e⟩ | ⟨-, e⟩⟩ := State.returnTake_cases addr s <;> rw [e]
  · exact h
  · rw [State.receiversLaw_iff]
    have hdown : ∀ sig, (Receiver.down sig).released.fits true := fun sig =>
      Receiver.released_fits (Receiver.down_fits sig false (by simp)).1
    rintro (_ | _) <;> exact hdown _
  · exact State.receiversLaw_of_eq h (by simp) (by simp) (by simp)

theorem State.receiversLaw_roundBoundary {s : State} (h : s.receiversLaw) : s.roundBoundary.receiversLaw := by
  obtain ⟨-, e⟩ | ⟨tag, -, e⟩ := State.roundBoundary_cases s <;> rw [e]
  · exact h
  · have hc : s.rewound.commitContexts.receiversLaw :=
      State.receiversLaw_onlyMerge (s := s.rewound.commitTables) h (State.commitContexts_onlyMerge _)
    exact State.receiversLaw_of_eq hc (by simp) (by simp) (by simp)

theorem State.receiversLaw_advancePosition {s : State} (h : s.receiversLaw) : s.advancePosition.receiversLaw := by
  obtain ⟨-, e⟩ | ⟨-, -, e⟩ | ⟨-, e⟩ := State.advancePosition_cases s <;> rw [e]
  · exact State.receiversLaw_roundBoundary h
  · exact h
  · exact h

theorem State.receiversLaw_useSlot {s : State} (h : s.receiversLaw) : s.useSlot.receiversLaw := by
  obtain e | ⟨k, n, others, -, -, e⟩ | ⟨k, n, others, b, rest, -, -, e⟩ := State.useSlot_cases s <;> rw [e] <;> exact h

/-- Every effect leaves lawful receivers. -/
theorem Effect.keeps_receiversLaw {s t : State} (h : s.receiversLaw) (he : Effect s t) : t.receiversLaw := by
  have hfit := (State.receiversLaw_iff s).mp h
  cases he with
  | still => exact h
  | powerUp | resetPin =>
    rw [State.receiversLaw_iff]
    intro p
    cases p <;> exact Receiver.down_fits _ _ (by simp [State.fullReset, Phase.counting])
  | released addr held =>
    rw [State.receiversLaw_iff]
    intro p
    cases p
    · exact Receiver.released_fits (hfit .a).1
    · exact Receiver.released_fits (hfit .b).1
  | loaded starting =>
    refine State.receiversLaw_onlyMerge (s := s.loadedTables) ?_
      (State.onlyMerge_of_onlyAlarms (State.loadInstant_onlyAlarms s))
    unfold State.receiversLaw at h ⊢
    rw [starting] at h
    exact h
  | detected p =>
    refine State.receiversLaw_setRx h ?_
    obtain ⟨hl, -⟩ := hfit p
    split
    · next hc => rw [hc]; exact Receiver.released_fits (Receiver.lawful_signal hl)
    · next hc => exact ⟨Receiver.lawful_signal hl, fun e => absurd e hc⟩
  | lost p out => exact State.receiversLaw_down p h
  | lostUp p last up =>
    exact State.receiversLaw_of_eq (State.receiversLaw_onlyMerge
      (State.receiversLaw_down p (State.receiversLaw_lastOrCut p last h)) (State.leftUp_onlyMerge p _))
      (by simp) (by simp) (by simp)
  | found p hunt =>
    obtain ⟨⟨hb, hp, hf, hu, hr, hs, hl, hn⟩, hc⟩ := hfit p
    refine State.receiversLaw_setRx h ⟨⟨by simp, by simp [Config.upHeaders], hf, fun _ => hu (by simp [hunt]),
      fun e => ?_, fun _ => hs (by simp [hunt]), by simp, by simp⟩, by simp⟩
    simpa [hunt] using hr e
  | hunted p bytes recent hunt tested =>
    obtain ⟨⟨hb, hp, hf, hu, hr, hs, hl, hn⟩, hc⟩ := hfit p
    have hlen : recent.length ≤ 5 := by
      obtain ⟨e, -⟩ | ⟨e, -⟩ := huntBytes_cases bytes (s.rx p).recent hl
      · rw [e] at tested; cases tested
      · rw [e] at tested; cases tested; rw [lastBytes_length]; omega
    exact State.receiversLaw_setRx h ⟨⟨hb, hp, hf, hu, hr, hs, hlen, fun _ => hunt⟩, hc⟩
  | checked p header check => exact State.receiversLaw_headerInCheck header h check
  | judged p header up => exact State.receiversLaw_headerInUp header h up
  | ended p hd payload check receiving =>
    exact State.receiversLaw_of_eq (State.receiversLaw_lastByte p hd payload check h) (by simp) (by simp) (by simp)
  | seeding i due =>
    cases i <;> exact State.receiversLaw_of_eq h (by simp [State.expireSeeding]) (by simp [State.expireSeeding])
      (by simp [State.expireSeeding])
  | gap i due =>
    cases i <;> exact State.receiversLaw_of_eq h (by simp [State.expireGap]) (by simp [State.expireGap])
      (by simp [State.expireGap])
  | presence i p due =>
    cases i <;> exact State.receiversLaw_of_eq h (by simp [State.expirePresence]) (by simp [State.expirePresence])
      (by simp [State.expirePresence])
  | boundary active due => exact State.receiversLaw_roundBoundary h
  | outSilent held => exact h
  | outStarting starting => exact State.receiversLaw_of_eq h (by simp) (by simp) (by simp)
  | outActive active =>
    exact State.receiversLaw_useSlot (State.receiversLaw_advancePosition
      (State.receiversLaw_of_eq h (by simp) (by simp) (by simp)))
  | returnSilent addr held => exact h
  | returnStarting addr starting => exact h
  | returnActive addr active => exact State.receiversLaw_returnTake addr h
  | notified ready => exact h
  | written ok slot image writing =>
    exact State.receiversLaw_onlyMerge (s := s.writeEnded ok slot image) h
      (State.onlyMerge_of_onlyAlarms (State.endWrite_onlyAlarms ok slot image s))
  | command c active => exact State.receiversLaw_of_eq h (by simp) (by simp) (by simp)

/-- Settles O53: a receiver's law is kept by every effect that touches a receiver, and the others leave both receivers. -/
theorem receiversStayLawful : Obligations.ReceiversStayLawful :=
  step_leads (fun _ _ h => h) (fun _ _ h => State.receiversLaw_of_eq h (by simp) (by simp) (by simp))
    (fun _ _ => Effect.keeps_receiversLaw)

end Sys2Proof.Machine
end

section
/-! PROOFS. The laws of the Stray Label List, the tables and the store: what a step can do to these three, said once as
the closure `TableLaw`, and the laws that are closed under it. -/

namespace Sys2Proof.Machine

open Sys2Proof

/-! ## What happens to strays, tables and store -/

/-- A property of the Stray Label List, the tables and the store is kept by each thing that a step can do to them. -/
structure TableLaw (P : List Stray → Tables → Store → Prop) : Prop where
  reset : ∀ {st tb sr}, P st tb sr → P [] State.reset.tables sr.abandon
  loaded : ∀ {st tb sr}, P st tb sr → P st { active := sr.consult.loadedBank, pendingBank := sr.consult.loadedBank,
                                             settings := sr.consult.loadedSettings, commit := .none } sr.consult
  offered : ∀ {st tb sr label p stamp st'}, P st tb sr → label ≠ managementLabel →
    offerStray label p stamp st = some st' → P st' tb sr
  cleared : ∀ {st tb sr}, P st tb sr → P [] tb sr
  completed : ∀ {st tb sr}, P st tb sr → tb.commit ≠ .none → P st { tb with active := tb.pendingBank, commit := .none } sr
  written : ∀ {st tb sr slot image}, P st tb sr → sr.state = .writing slot image → ∀ ok : Bool,
    P st tb { sr.setSlot slot (if ok then some image else none) with state := .idle }
  pending : ∀ {st tb sr bank}, P st tb sr → tb.commit = .none →
    (tb.active.inRange → tb.pendingBank.inRange → bank.inRange) → P st { tb with pendingBank := bank } sr
  committed : ∀ {st tb sr}, P st tb sr → tb.pendingBank.validate = none → ∀ tag,
    P st { tb with commit := .outstanding tag } sr
  settings : ∀ {st tb sr t}, P st tb sr → t.inRange → P st { tb with settings := t } sr
  saved : ∀ {st tb sr}, P st tb sr → sr.state = .idle → ∀ slot generation,
    P st tb { sr.consult.setSlot slot none with state := .writing slot (Image.form generation tb.active tb.settings) }
  consulted : ∀ {st tb sr}, P st tb sr → P st tb sr.consult
  imageLoaded : ∀ {st tb sr slot image}, P st tb sr → tb.commit = .none → sr.consult.newest = some (slot, image) →
    P st { tb with pendingBank := image.bank, settings := image.settings } sr.consult

section
variable {P : List Stray → Tables → Store → Prop}

/-- The property as it stands in a state. -/
def State.tableLaw (P : List Stray → Tables → Store → Prop) (s : State) : Prop := P s.strays s.tables s.store

theorem State.tableLaw_of_eq {s t : State} (h : s.tableLaw P) (h1 : t.strays = s.strays) (h2 : t.tables = s.tables)
    (h3 : t.store = s.store) : t.tableLaw P := by
  unfold State.tableLaw
  rw [h1, h2, h3]
  exact h

theorem State.tableLaw_onlyMerge {s t : State} (h : s.tableLaw P) (hm : s.onlyMerge t) : t.tableLaw P := by
  obtain ⟨-, -, -, -, -, -, -, h1, h2, -, -, h3, -⟩ := State.onlyMerge_keeps hm
  exact State.tableLaw_of_eq h h1 h2 h3

/-- A command's execution does nothing else to strays, tables and store. -/
theorem Executed.keeps_tableLaw (hP : TableLaw P) {c : Command} {s t : State} (hs : s.tableLaw P)
    (h : Executed c s t) : t.tableLaw P := by
  cases h with
  | answered | lowWater | deviceCleared | alarmsCleared | restartQueued => exact hs
  | cleared i => cases i <;> exact hs
  | pendingWritten bank free range => exact hP.pending hs free range
  | committed code free valid => exact hP.committed hs valid _
  | settingsWritten u range =>
    exact State.tableLaw_of_eq (s := s.writeSettings u) (State.tableLaw_onlyMerge (s := s.withSettings u)
      (hP.settings hs range) (State.writeSettings_onlyMerge u s)) rfl rfl rfl
  | straysCleared => exact hP.cleared hs
  | flushed n =>
    exact State.tableLaw_of_eq (s := s.flushFlow n) (State.tableLaw_onlyMerge hs (State.flushFlow_onlyMerge n s)) rfl rfl
      rfl
  | saved code idle => exact hP.saved hs idle _ _
  | loadEmpty => exact hP.consulted hs
  | imageLoaded slot image free newest =>
    have h1 := State.writeSettings_onlyMerge image.settings
      (State.writePending image.bank { s with store := s.store.consult })
    exact State.tableLaw_of_eq (s := State.writeSettings image.settings
      (State.writePending image.bank { s with store := s.store.consult }))
      (State.tableLaw_onlyMerge (s := State.withSettings image.settings
        (State.writePending image.bank { s with store := s.store.consult })) (hP.imageLoaded (st := s.strays) (tb := s.tables)
          (sr := s.store) hs free newest) h1)
      rfl rfl rfl
  | restarted =>
    refine State.tableLaw_of_eq (s := { s with strays := [] }) (hP.cleared hs) ?_ ?_ ?_ <;> simp [State.trafficRestart]

theorem State.tableLaw_settleAgent (hP : TableLaw P) {s : State} (hs : s.tableLaw P) : s.settleAgent.tableLaw P :=
  State.settle_keeps (P := State.tableLaw P)
    (fun u hu => State.tableLaw_onlyMerge hu (State.settleM_onlyMerge u))
    (fun _ rest u _ hu _ _ hx => Executed.keeps_tableLaw hP
      (s := { u with agent := { u.agent with commands := rest } }) hu hx)
    (fun _ _ hu => State.tableLaw_of_eq hu (by simp) (by simp) (by simp)) _ _ s hs

theorem State.tableLaw_arriveM (hP : TableLaw P) (b : Buffer) {s : State} (hs : s.tableLaw P) :
    (s.arriveM b).tableLaw P := by
  have hm := State.onlyMerge_trans
    (State.moveBuffers_onlyMerge (s.m.judge s.mParams s.tables.settings.skewTicks s.pool.free b) s)
    (State.latchAll_onlyMerge (s.m.judge s.mParams s.tables.settings.skewTicks s.pool.free b).events _)
  exact State.tableLaw_settleAgent hP
    (State.tableLaw_of_eq (State.tableLaw_onlyMerge hs hm) rfl rfl rfl)

theorem State.tableLaw_classify (hP : TableLaw P) (b : Buffer) {s : State} (hs : s.tableLaw P) :
    (s.classify b).tableLaw P := by
  obtain ⟨-, e⟩ | ⟨hl, -, e⟩ | ⟨n, -, -, -, e⟩ | ⟨n, -, -, -, e⟩ := State.classify_cases b s <;> rw [e]
  · exact State.tableLaw_arriveM hP b hs
  · unfold State.unmatched
    dsimp only
    split
    · have hoff := hP.offered (stamp := b.stamp) (p := b.path) hs hl ‹_›
      exact State.tableLaw_of_eq (s := { s with strays := _ }) hoff rfl (by simp) (by simp)
    · exact State.tableLaw_of_eq hs (by simp) (by simp) (by simp)
  · exact State.tableLaw_onlyMerge hs (State.arriveFlow_onlyMerge n b s)
  · exact State.tableLaw_of_eq hs (by simp) (by simp) (by simp)

theorem State.tableLaw_takeDelivered (hP : TableLaw P) (b : Option Buffer) {s : State} (hs : s.tableLaw P) :
    (State.takeDelivered b s).tableLaw P := by
  cases b
  · exact hs
  · exact State.tableLaw_classify hP _ hs

@[simp] theorem State.lastByte_tables (p : Path) (h : Header) (payload check : List Byte) (s : State) :
    (s.lastByte p h payload check).2.strays = s.strays ∧ (s.lastByte p h payload check).2.tables = s.tables ∧
    (s.lastByte p h payload check).2.store = s.store ∧ (s.lastByte p h payload check).2.phase = s.phase ∧
    (s.lastByte p h payload check).2.timeBase = s.timeBase ∧ (s.lastByte p h payload check).2.flows = s.flows ∧
    (s.lastByte p h payload check).2.m = s.m ∧ (s.lastByte p h payload check).2.pool = s.pool ∧
    (s.lastByte p h payload check).2.sched = s.sched ∧ (s.lastByte p h payload check).2.out = s.out ∧
    (s.lastByte p h payload check).2.alarms = s.alarms ∧
    (s.lastByte p h payload check).2.agent.commands = s.agent.commands ∧
    (s.lastByte p h payload check).2.agent.replies = s.agent.replies ∧
    (s.lastByte p h payload check).2.agent.restartWaiting = s.agent.restartWaiting := by
  obtain ⟨b, -, -, e⟩ | e := State.lastByte_cases p h payload check s <;> rw [e] <;> simp

@[simp] theorem State.lastOrCut_tables (p : Path) (last : Option (List Byte × List Byte)) (s : State) :
    (s.lastOrCut p last).2.strays = s.strays ∧ (s.lastOrCut p last).2.tables = s.tables ∧
    (s.lastOrCut p last).2.store = s.store ∧ (s.lastOrCut p last).2.phase = s.phase ∧
    (s.lastOrCut p last).2.timeBase = s.timeBase ∧ (s.lastOrCut p last).2.flows = s.flows ∧
    (s.lastOrCut p last).2.m = s.m ∧ (s.lastOrCut p last).2.pool = s.pool ∧
    (s.lastOrCut p last).2.sched = s.sched ∧ (s.lastOrCut p last).2.out = s.out ∧
    (s.lastOrCut p last).2.alarms = s.alarms ∧
    (s.lastOrCut p last).2.agent.commands = s.agent.commands ∧
    (s.lastOrCut p last).2.agent.replies = s.agent.replies ∧
    (s.lastOrCut p last).2.agent.restartWaiting = s.agent.restartWaiting := by
  obtain ⟨-, e⟩ | ⟨h, payload, check, -, -, e⟩ | ⟨h, -, -, e⟩ := State.lastOrCut_cases p last s <;> rw [e] <;> simp

/-- What a header at the boundary leaves alone: nothing but receivers, device counters, and, where UP is left, contexts,
rings and alarms changes. -/
theorem State.judgeHeader_keeps (p : Path) (header : BitVec 48) (s : State) :
    (s.judgeHeader p header).phase = s.phase ∧ (s.judgeHeader p header).timeBase = s.timeBase ∧
    (s.judgeHeader p header).strays = s.strays ∧ (s.judgeHeader p header).tables = s.tables ∧
    (s.judgeHeader p header).store = s.store ∧ (s.judgeHeader p header).flows = s.flows ∧
    (s.judgeHeader p header).m = s.m ∧ (s.judgeHeader p header).pool = s.pool ∧
    (s.judgeHeader p header).sched = s.sched ∧ (s.judgeHeader p header).out = s.out ∧
    (s.judgeHeader p header).agent = s.agent ∧ (s.judgeHeader p header).alarms = s.alarms := by
  obtain ⟨-, e⟩ | ⟨-, ⟨f, e⟩ | ⟨h, f, e⟩⟩ := State.judgeHeader_cases p header s <;> rw [e] <;> simp

/-- What a header in CHECK leaves: the sixth passing one enters UP with its link condition ended, another only writes the
receiver (R114, R115). -/
theorem State.headerInCheck_cases {p : Path} (header : BitVec 48) {s : State} (check : (s.rx p).state = .check) :
    (∃ r, s.headerInCheck p header = s.setRx p r ∧ r.state ≠ .up ∧ r.reception = (s.rx p).reception) ∨
    ∃ r f, s.headerInCheck p header = (((s.setRx p r).countPath p f).report (linkKind p) false).judgeHeader p header ∧
      r.state = .up ∧ r.reception = none := by
  unfold State.headerInCheck
  dsimp only
  split
  · split
    · exact .inr ⟨_, _, rfl, rfl, rfl⟩
    · exact .inl ⟨_, rfl, by simp [check], rfl⟩
  · exact .inl ⟨_, rfl, by simp, rfl⟩

/-- What a header in UP leaves: the receiver written and the header judged, and behind the fourth failing one UP left
(R116, R117). -/
theorem State.headerInUp_cases (p : Path) (header : BitVec 48) (s : State) :
    (∃ r, s.headerInUp p header = (s.setRx p r).judgeHeader p header ∧
      r.state = (s.rx p).state ∧ r.reception = none) ∨
    ∃ r r', s.headerInUp p header = (((s.setRx p r).judgeHeader p header).setRx p r').leftUp p ∧
      r.state = (s.rx p).state ∧ r'.state = .hunt ∧ r'.reception = none := by
  unfold State.headerInUp
  dsimp only
  split
  · exact .inl ⟨_, rfl, rfl, rfl⟩
  · split
    · exact .inl ⟨_, rfl, rfl, rfl⟩
    · exact .inr ⟨_, _, rfl, rfl, rfl, rfl⟩

/-- Headers change nothing of strays, tables and store. -/
theorem State.tableLaw_headerInCheck {p : Path} (header : BitVec 48) {s : State} (check : (s.rx p).state = .check)
    (hs : s.tableLaw P) : (s.headerInCheck p header).tableLaw P := by
  obtain ⟨r, e, -⟩ | ⟨r, f, e, -⟩ := State.headerInCheck_cases header check <;> rw [e]
  · exact State.tableLaw_of_eq hs (by simp) (by simp) (by simp)
  · have hj := State.judgeHeader_keeps p header (((s.setRx p r).countPath p f).report (linkKind p) false)
    exact State.tableLaw_of_eq hs (by simp [hj]) (by simp [hj]) (by simp [hj])

theorem State.tableLaw_headerInUp (p : Path) (header : BitVec 48) {s : State} (hs : s.tableLaw P) :
    (s.headerInUp p header).tableLaw P := by
  have judged : ∀ r, ((s.setRx p r).judgeHeader p header).tableLaw P := fun r => by
    have hj := State.judgeHeader_keeps p header (s.setRx p r)
    exact State.tableLaw_of_eq hs (by simp [hj]) (by simp [hj]) (by simp [hj])
  obtain ⟨r, e, -⟩ | ⟨r, r', e, -⟩ := State.headerInUp_cases p header s <;> rw [e]
  · exact judged r
  · exact State.tableLaw_onlyMerge (State.tableLaw_of_eq (judged r) (by simp) (by simp) (by simp))
      (State.leftUp_onlyMerge p _)

theorem State.tableLaw_roundBoundary (hP : TableLaw P) {s : State} (hs : s.tableLaw P) : s.roundBoundary.tableLaw P := by
  obtain ⟨-, e⟩ | ⟨tag, ht, e⟩ := State.roundBoundary_cases s <;> rw [e]
  · exact hs
  · have hc : s.rewound.commitContexts.tableLaw P := State.tableLaw_onlyMerge (s := s.rewound.commitTables)
      (hP.completed hs fun e' => by cases ht.symm.trans e') (State.commitContexts_onlyMerge _)
    exact State.tableLaw_of_eq hc (by simp) (by simp) (by simp)

theorem State.tableLaw_advancePosition (hP : TableLaw P) {s : State} (hs : s.tableLaw P) :
    s.advancePosition.tableLaw P := by
  obtain ⟨-, e⟩ | ⟨-, -, e⟩ | ⟨-, e⟩ := State.advancePosition_cases s <;> rw [e]
  · exact State.tableLaw_roundBoundary hP hs
  · exact hs
  · exact hs

theorem State.tableLaw_useSlot {s : State} (hs : s.tableLaw P) : s.useSlot.tableLaw P := by
  obtain e | ⟨k, n, others, -, -, e⟩ | ⟨k, n, others, b, rest, -, -, e⟩ := State.useSlot_cases s <;> rw [e] <;> exact hs

theorem State.tableLaw_returnTake (hP : TableLaw P) (addr : BitVec 5) {s : State} (hs : s.tableLaw P) :
    (s.returnTake addr).tableLaw P := by
  obtain ⟨-, e⟩ | ⟨r, left, -, ⟨-, e⟩ | ⟨-, e⟩⟩ := State.returnTake_cases addr s <;> rw [e]
  · exact hs
  · exact hP.reset hs
  · exact State.tableLaw_settleAgent hP (State.tableLaw_of_eq (s := s) hs rfl rfl rfl)

/-- An expiry changes contexts, alarms, or what the agent executes behind it. -/
theorem State.tableLaw_expire (hP : TableLaw P) {s : State} (hs : s.tableLaw P) (i : ContextId) (p : Path) :
    (s.expireSeeding i).tableLaw P ∧ (s.expireGap i).tableLaw P ∧ (s.expirePresence i p).tableLaw P := by
  have hl : (s.latch .loss).tableLaw P := State.tableLaw_of_eq hs (by simp) (by simp) (by simp)
  cases i with
  | flow n =>
    exact ⟨State.tableLaw_onlyMerge hs (State.changeFlow_onlyMerge n _ s),
      State.tableLaw_onlyMerge hl (State.changeFlow_onlyMerge n _ _),
      State.tableLaw_onlyMerge hs (State.changeFlow_onlyMerge n _ s)⟩
  | m =>
    exact ⟨State.tableLaw_settleAgent hP (State.tableLaw_of_eq (s := s) hs rfl rfl rfl),
      State.tableLaw_settleAgent hP (State.tableLaw_of_eq (s := s.latch .loss) hl rfl rfl rfl),
      State.tableLaw_of_eq hs rfl rfl rfl⟩

/-- Every effect keeps what each of the changes of strays, tables and store keeps. -/
theorem Effect.keeps_tableLaw (hP : TableLaw P) {s t : State} (hs : s.tableLaw P) (he : Effect s t) : t.tableLaw P := by
  cases he with
  | still => exact hs
  | powerUp | resetPin => exact hP.reset hs
  | released addr held => exact hs
  | loaded starting =>
    exact State.tableLaw_onlyMerge (s := s.loadedTables) (hP.loaded hs)
      (State.onlyMerge_of_onlyAlarms (State.loadInstant_onlyAlarms s))
  | detected p => exact State.tableLaw_of_eq hs (by simp) (by simp) (by simp)
  | lost p out => exact State.tableLaw_of_eq hs (by simp) (by simp) (by simp)
  | lostUp p last up =>
    exact State.tableLaw_takeDelivered hP _ (State.tableLaw_onlyMerge
      (State.tableLaw_of_eq hs (by simp) (by simp) (by simp)) (State.leftUp_onlyMerge p _))
  | found p hunt => exact State.tableLaw_of_eq hs (by simp) (by simp) (by simp)
  | hunted p bytes recent hunt tested => exact State.tableLaw_of_eq hs (by simp) (by simp) (by simp)
  | checked p header check => exact State.tableLaw_headerInCheck header check hs
  | judged p header up => exact State.tableLaw_headerInUp p header hs
  | ended p h payload check receiving =>
    exact State.tableLaw_takeDelivered hP _ (State.tableLaw_of_eq hs (by simp) (by simp) (by simp))
  | seeding i due => exact (State.tableLaw_expire hP hs i .a).1
  | gap i due => exact (State.tableLaw_expire hP hs i .a).2.1
  | presence i p due => exact (State.tableLaw_expire hP hs i p).2.2
  | boundary active due => exact State.tableLaw_roundBoundary hP hs
  | outSilent held => exact hs
  | outStarting starting => exact hs
  | outActive active =>
    exact State.tableLaw_useSlot (State.tableLaw_advancePosition hP
      (State.tableLaw_of_eq hs (by simp) (by simp) (by simp)))
  | returnSilent addr held => exact hs
  | returnStarting addr starting => exact hs
  | returnActive addr active => exact State.tableLaw_returnTake hP addr (s := { s with addrPins := addr }) hs
  | notified ready => exact hs
  | written ok slot image writing =>
    exact State.tableLaw_onlyMerge (s := s.writeEnded ok slot image) (hP.written hs writing ok)
      (State.onlyMerge_of_onlyAlarms (State.endWrite_onlyAlarms ok slot image s))
  | command c active =>
    exact State.tableLaw_settleAgent hP (State.tableLaw_of_eq hs (by simp) (by simp) (by simp))

/-- What is closed under the changes of strays, tables and store, every step keeps. -/
theorem TableLaw.step (hP : TableLaw P) : ∀ s t : State, s.tableLaw P → step s = .next t → t.tableLaw P :=
  step_leads (fun _ _ h => h) (fun _ _ h => State.tableLaw_of_eq h (by simp) (by simp) (by simp))
    (fun _ _ => Effect.keeps_tableLaw hP)

end

end Sys2Proof.Machine
end

section
/-! PROOFS. Three laws closed under what a step does to strays, tables and store: the Stray Label List (R16), the ranges of
every table and image (R1, R7, R11, R187), and the soundness of ACTIVE, of a waiting PENDING and of the images (R8, R134). -/

namespace Sys2Proof.Machine

open Sys2Proof

/-! ## The Stray Label List -/

/-- An offer updates the label's record, or makes one at the tail of a list that is not full (R16). -/
theorem offerStray_cases {label : Label} {p : Path} {stamp : Time} {strays after : List Stray}
    (h : offerStray label p stamp strays = some after) :
    (after.length = strays.length ∧ after.map Stray.label = strays.map Stray.label) ∨
    strays.length < Config.strayPlaces ∧ label ∉ strays.map Stray.label ∧
      after = strays ++ [{ label := label, firstSeen := p, count := 1, last := stamp }] := by
  unfold offerStray at h
  split at h
  · cases h
    refine .inl ⟨by simp, ?_⟩
    rw [List.map_map]
    refine List.map_congr_left fun r _ => ?_
    simp only [Function.comp_apply]
    split <;> rfl
  · next hnew =>
    split at h <;> cases h
    refine .inr ⟨‹_›, fun hm => hnew ?_, rfl⟩
    obtain ⟨r, hr, hl⟩ := List.mem_map.mp hm
    exact List.any_eq_true.mpr ⟨r, hr, by simp [hl]⟩

/-- The Stray Label List's law, of the list alone (R16). -/
def straysLawful (strays : List Stray) : Prop :=
  strays.length ≤ Config.strayPlaces ∧ (strays.map Stray.label).Nodup ∧ managementLabel ∉ strays.map Stray.label

theorem straysLawful_nil : straysLawful [] := ⟨by decide, List.nodup_nil, by simp⟩

theorem straysLawful_offer {label : Label} {p : Path} {stamp : Time} {strays after : List Stray}
    (h : straysLawful strays) (hl : label ≠ managementLabel) (ho : offerStray label p stamp strays = some after) :
    straysLawful after := by
  obtain ⟨hlen, hnodup, hm⟩ := h
  obtain ⟨e1, e2⟩ | ⟨hlt, hnew, rfl⟩ := offerStray_cases ho
  · exact ⟨by rw [e1]; exact hlen, by rw [e2]; exact hnodup, by rw [e2]; exact hm⟩
  · unfold straysLawful
    rw [List.map_append]
    refine ⟨by simpa using hlt, List.nodup_append.mpr ⟨hnodup, by simp, ?_⟩, ?_⟩
    · rintro a ha b hb rfl
      rw [List.map_singleton, List.mem_singleton] at hb
      subst hb
      exact hnew ha
    · simpa [hm] using fun e => hl e.symm

theorem straysLawful_tableLaw : TableLaw (fun strays _ _ => straysLawful strays) where
  reset _ := straysLawful_nil
  loaded h := h
  offered h hl ho := straysLawful_offer h hl ho
  cleared _ := straysLawful_nil
  completed h _ := h
  written h _ _ := h
  pending h _ _ := h
  committed h _ _ := h
  settings h _ := h
  saved h _ _ _ := h
  consulted h := h
  imageLoaded h _ _ := h

theorem State.straysLaw_iff (s : State) : s.straysLaw ↔ straysLawful s.strays := by
  unfold State.straysLaw straysLawful
  simp only [List.mem_map, not_exists, not_and, ne_eq]

/-- Settles O54: only an offer adds a record, to a list that is not full and has none of the label. -/
theorem strayListStaysLawful : Obligations.StrayListStaysLawful := by
  intro s t h hstep
  rw [State.straysLaw_iff] at h ⊢
  exact straysLawful_tableLaw.step s t h hstep

/-! ## The images of the store -/

theorem Store.mem_images {store : Store} {i : Image} :
    i ∈ store.images ↔ store.slot0 = some i ∨ store.slot1 = some i ∨ ∃ slot, store.state = .writing slot i := by
  unfold Store.images
  cases h : store.state <;> simp [eq_comm]

/-- Judging the slots finds no new image (R187). -/
theorem Store.mem_images_consult {store : Store} {i : Image} (h : i ∈ store.consult.images) : i ∈ store.images := by
  rw [Store.mem_images] at h ⊢
  simp only [Store.consult_keeps, Store.judgeSlot_eq_some] at h
  obtain ⟨h, -⟩ | ⟨h, -⟩ | h := h
  · exact .inl h
  · exact .inr (.inl h)
  · exact .inr (.inr h)

/-- The newest valid image is one of the store's (R188). -/
theorem Store.newest_mem_images {store : Store} {slot : Bool} {i : Image} (h : store.newest = some (slot, i)) :
    i ∈ store.images := by
  rw [Store.mem_images]
  unfold Store.newest at h
  split at h
  · split at h <;> cases h
    · exact .inr (.inl ‹_›)
    · exact .inl ‹_›
  · cases h; exact .inl ‹_›
  · cases h; exact .inr (.inl ‹_›)
  · cases h

/-- An abandoned write leaves no new image (R193). -/
theorem Store.mem_images_abandon {store : Store} {i : Image} (h : i ∈ store.abandon.images) : i ∈ store.images := by
  unfold Store.abandon at h
  split at h
  · exact h
  · next slot image hw =>
    rw [Store.mem_images] at h ⊢
    cases slot
    · simp only [Store.setSlot, Bool.false_eq_true, if_false, reduceCtorEq, false_or, exists_false, or_false] at h
      exact .inr (.inl h)
    · simp only [Store.setSlot, if_true, reduceCtorEq, exists_false, or_false] at h
      exact .inl h

/-- A write that ends leaves no image but those there and the one written (R191). -/
theorem Store.mem_images_written {store : Store} {slot : Bool} {image i : Image} (hw : store.state = .writing slot image)
    {ok : Bool} (h : i ∈ Store.images
      { store.setSlot slot (if ok then some image else none) with state := .idle }) : i ∈ store.images := by
  rw [Store.mem_images] at h ⊢
  have new : (if ok then some image else none) = some i → store.state = .writing slot i := by
    cases ok
    · simp
    · simp only [if_true, Option.some.injEq]; rintro rfl; exact hw
  cases slot
  · simp only [Store.setSlot, Bool.false_eq_true, if_false, reduceCtorEq, exists_false, or_false] at h
    exact h.elim (fun e => .inr (.inr ⟨_, new e⟩)) (fun e => .inr (.inl e))
  · simp only [Store.setSlot, if_true, reduceCtorEq, exists_false, or_false] at h
    exact h.elim .inl (fun e => .inr (.inr ⟨_, new e⟩))

/-- A write that begins leaves no image but those there and the copy taken (R190). -/
theorem Store.mem_images_saved {store : Store} {slot : Bool} {image i : Image}
    (h : i ∈ Store.images { store.consult.setSlot slot none with state := .writing slot image }) :
    i ∈ store.images ∨ i = image := by
  rw [Store.mem_images] at h
  have kept : store.consult.slot0 = some i ∨ store.consult.slot1 = some i → i ∈ store.images := fun e =>
    Store.mem_images_consult (Store.mem_images.mpr (e.imp id .inl))
  obtain h | h | ⟨s', h⟩ := h
  · cases slot
    · simp [Store.setSlot] at h
    · exact .inl (kept (.inl h))
  · cases slot
    · exact .inl (kept (.inr h))
    · simp [Store.setSlot] at h
  · cases h; exact .inr rfl

/-! ## Ranges -/

theorem Bank.default_inRange : Bank.default.inRange := by
  refine ⟨by simp [Bank.default], fun e he => ?_, by simp [Bank.default, Calendar.default], by decide, by decide⟩
  rw [List.eq_of_mem_replicate he]
  exact ⟨by decide, by decide, by decide, by decide, by decide⟩

theorem Settings.default_inRange : Settings.default.inRange := ⟨by decide, by decide, by decide, by decide⟩

/-- The ranges of tables and images, of these alone (R1, R7, R11, R187). -/
def inRanges (tb : Tables) (store : Store) : Prop :=
  tb.active.inRange ∧ tb.pendingBank.inRange ∧ tb.settings.inRange ∧
    ∀ i ∈ store.images, i.bank.inRange ∧ i.settings.inRange

/-- What the load instant takes is in range when the images are. -/
theorem Store.loaded_inRange {store : Store} (h : ∀ i ∈ store.images, i.bank.inRange ∧ i.settings.inRange) :
    store.loadedBank.inRange ∧ store.loadedSettings.inRange := by
  unfold Store.loadedBank Store.loadedSettings
  cases hn : store.newest with
  | none => exact ⟨Bank.default_inRange, Settings.default_inRange⟩
  | some slotImage => exact h _ (Store.newest_mem_images hn)

theorem inRanges_tableLaw : TableLaw (fun _ tb store => inRanges tb store) where
  reset := fun ⟨_, _, _, hi⟩ => ⟨Bank.default_inRange, Bank.default_inRange, Settings.default_inRange,
    fun i h => hi i (Store.mem_images_abandon h)⟩
  loaded := fun ⟨_, _, _, hi⟩ =>
    have hc := fun i h => hi i (Store.mem_images_consult h)
    have ⟨hb, ht⟩ := Store.loaded_inRange hc
    ⟨hb, hb, ht, hc⟩
  offered h _ _ := h
  cleared h := h
  completed := fun ⟨_, hp, ht, hi⟩ _ => ⟨hp, hp, ht, hi⟩
  written := fun ⟨ha, hp, ht, hi⟩ hw _ => ⟨ha, hp, ht, fun i h => hi i (Store.mem_images_written hw h)⟩
  pending := fun ⟨ha, hp, ht, hi⟩ _ hb => ⟨ha, hb ha hp, ht, hi⟩
  committed h _ _ := h
  settings := fun ⟨ha, hp, _, hi⟩ ht => ⟨ha, hp, ht, hi⟩
  saved := fun ⟨ha, hp, ht, hi⟩ _ _ _ => ⟨ha, hp, ht, fun i h =>
    (Store.mem_images_saved h).elim (hi i) (fun e => by rw [e]; exact ⟨ha, ht⟩)⟩
  consulted := fun ⟨ha, hp, ht, hi⟩ => ⟨ha, hp, ht, fun i h => hi i (Store.mem_images_consult h)⟩
  imageLoaded := fun ⟨ha, _, _, hi⟩ _ hn =>
    have hc := fun i h => hi i (Store.mem_images_consult h)
    have ⟨hb, ht⟩ := hc _ (Store.newest_mem_images hn)
    ⟨ha, hb, ht, hc⟩

/-- Every step keeps every table field in its range. -/
theorem step_keeps_tablesInRange : ∀ s t : State, s.tablesInRange → step s = .next t → t.tablesInRange :=
  inRanges_tableLaw.step

/-! ## Soundness -/

theorem Bank.entry_default (n : Index) : Bank.default.entry n = Entry.default := by
  have : n.val < (List.replicate 128 Entry.default).length := by simp
  simp only [Bank.entry, Bank.default, List.getD_eq_getElem _ _ this, List.getElem_replicate]

theorem Bank.default_sound : Bank.default.sound := by
  refine ⟨fun i j hi => ?_, fun i hi => ?_⟩ <;> (rw [Bank.entry_default] at hi; cases hi)

/-- A lower index of a valid entry that carries the same in-label (R134, test 1). -/
theorem Bank.dupLabel_iff (bank : Bank) (n : Index) : bank.dupLabel n = true ↔
    ∃ k : Index, k < n ∧ (bank.entry k).valid = true ∧ (bank.entry k).inLabel = (bank.entry n).inLabel := by
  simp [Bank.dupLabel, and_assoc]

/-- An entry passes both tests exactly when it is invalid, or new in its label with its lone hold within its hold
(R134). -/
theorem Bank.checkEntry_eq_none (bank : Bank) (n : Index) : bank.checkEntry n = none ↔
    ((bank.entry n).valid = true → bank.dupLabel n = false ∧
      (bank.entry n).loneHold.toNat ≤ (bank.entry n).hold.toNat) := by
  unfold Bank.checkEntry
  split
  · split
    · simp [*]
    · split <;> simp_all
  · simp [*]

/-- Validation passes exactly the sound banks (R8, R134). -/
theorem Bank.validate_eq_none (bank : Bank) : bank.validate = none ↔ bank.sound := by
  unfold Bank.validate
  rw [List.findSome?_eq_none_iff]
  simp only [List.mem_finRange, true_imp_iff, Bank.checkEntry_eq_none]
  constructor
  · intro h
    have low : ∀ i j : Index, i < j → (bank.entry i).valid = true → (bank.entry j).valid = true →
        (bank.entry i).inLabel ≠ (bank.entry j).inLabel := fun i j hij hi hj e => by
      have hd := (bank.dupLabel_iff j).mpr ⟨i, hij, hi, e⟩
      rw [(h j hj).1] at hd
      cases hd
    refine ⟨fun i j hi hj e => ?_, fun i hi => (h i hi).2⟩
    obtain hlt | rfl | hgt := lt_trichotomy i j
    · exact absurd e (low i j hlt hi hj)
    · rfl
    · exact absurd e.symm (low j i hgt hj hi)
  · rintro ⟨hu, hl⟩ n hn
    refine ⟨Bool.eq_false_iff.mpr fun hd => ?_, hl n hn⟩
    obtain ⟨k, hk, hv, e⟩ := (bank.dupLabel_iff n).mp hd
    exact absurd (hu k n hv hn e) (ne_of_lt hk)

/-- The soundness of banks and images, of tables and store alone (R8, R134). -/
def soundBanks (tb : Tables) (store : Store) : Prop :=
  tb.active.sound ∧ (tb.commit ≠ .none → tb.pendingBank.sound) ∧ ∀ i ∈ store.images, i.bank.sound

theorem Store.loadedBank_sound {store : Store} (h : ∀ i ∈ store.images, i.bank.sound) : store.loadedBank.sound := by
  unfold Store.loadedBank
  cases hn : store.newest with
  | none => exact Bank.default_sound
  | some slotImage => exact h _ (Store.newest_mem_images hn)

theorem soundBanks_tableLaw : TableLaw (fun _ tb store => soundBanks tb store) where
  reset := fun ⟨_, _, hi⟩ => ⟨Bank.default_sound, fun _ => Bank.default_sound,
    fun i h => hi i (Store.mem_images_abandon h)⟩
  loaded := fun ⟨_, _, hi⟩ =>
    have hc := fun i h => hi i (Store.mem_images_consult h)
    have hb := Store.loadedBank_sound hc
    ⟨hb, fun _ => hb, hc⟩
  offered h _ _ := h
  cleared h := h
  completed := fun ⟨_, hp, hi⟩ hc => ⟨hp hc, fun _ => hp hc, hi⟩
  written := fun ⟨ha, hp, hi⟩ hw _ => ⟨ha, hp, fun i h => hi i (Store.mem_images_written hw h)⟩
  pending := fun ⟨ha, _, hi⟩ hc _ => ⟨ha, fun e => absurd hc e, hi⟩
  committed := fun ⟨ha, _, hi⟩ hv _ => ⟨ha, fun _ => (Bank.validate_eq_none _).mp hv, hi⟩
  settings h _ := h
  saved := fun ⟨ha, hp, hi⟩ _ _ _ => ⟨ha, hp, fun i h =>
    (Store.mem_images_saved h).elim (hi i) (fun e => by rw [e]; exact ha)⟩
  consulted := fun ⟨ha, hp, hi⟩ => ⟨ha, hp, fun i h => hi i (Store.mem_images_consult h)⟩
  imageLoaded := fun ⟨ha, _, hi⟩ hc _ => ⟨ha, fun e => absurd hc e, fun i h => hi i (Store.mem_images_consult h)⟩

/-- Settles O56: PENDING becomes ACTIVE only behind a COMMIT that validated it, since nothing writes it meanwhile, and an
image is a copy of ACTIVE. -/
theorem activeBankStaysSound : Obligations.ActiveBankStaysSound := soundBanks_tableLaw.step

end Sys2Proof.Machine
end

section
/-! PROOFS. Before the load instant (R97, R123, R150, R195, R196): no effect outside the working phase reaches a context, a
table or the agent, because the fresh contexts have no deadline and no path PRESENT and no cell is in reception. -/

namespace Sys2Proof.Machine

open Sys2Proof

/-! ## Fresh contexts -/

theorem State.flow_reset {s : State} (h : s.flows = State.reset.flows) (n : Index) : s.flow n = Ctx.fresh .none 0 := by
  have hn : n.val < (List.replicate 128 (Ctx.fresh .none 0)).length := by simp
  rw [State.flow, h]
  simp only [State.reset, List.getD_eq_getElem _ _ hn, List.getElem_replicate]

theorem Ctx.markAbsent_fresh (p : Path) (st : CtxState) (cls : Fin 8) :
    (Ctx.fresh st cls).markAbsent p = Ctx.fresh st cls := by cases p <;> rfl

/-- A flow without context that is written back as it stands changes nothing. -/
theorem State.settleFlow_fresh {s : State} {n : Index} {st : CtxState} {cls : Fin 8} (h : s.flow n = Ctx.fresh st cls)
    (hs : st ≠ .seeding) (hr : st ≠ .running) : s.settleFlow n (Ctx.fresh st cls) = s := by
  have hq : (Ctx.fresh st cls).queue = [] := rfl
  rw [State.settleFlow_eq, Ctx.settle_stay (c' := Ctx.fresh st cls) (Ctx.micro_idle _ _ hs hr)]
  simp only [State.putFlow, h, hq, List.isEmpty_nil, Bool.not_true, Bool.and_false, Bool.false_eq_true, if_false]
  rw [← h, State.setFlow_same]

/-- With the contexts as the reset left them, a path becoming ABSENT changes the alarms alone. -/
theorem State.pathAbsent_fresh {s : State} (hf : s.flows = State.reset.flows) (hm : s.m = State.reset.m) (p : Path) :
    s.pathAbsent p = s.reportFlows := by
  have hm' : ({ s with m := s.m.markAbsent p } : State) = s := by
    rw [show s.m.markAbsent p = s.m by rw [hm]; exact Ctx.markAbsent_fresh p _ _]
  have hall : s.forFlows (fun n t => t.settleFlow n ((t.flow n).markAbsent p)) = s := by
    refine State.forFlows_induct (P := fun t => t = s) (fun n t ht => ?_) s rfl
    subst ht
    have hn := State.flow_reset hf n
    rw [hn, Ctx.markAbsent_fresh]
    exact State.settleFlow_fresh hn (by simp) (by simp)
  unfold State.pathAbsent
  rw [hm', hall]

theorem State.leftUp_fresh {s : State} (hf : s.flows = State.reset.flows) (hm : s.m = State.reset.m) (p : Path) :
    s.onlyAlarms (s.leftUp p) := by
  unfold State.leftUp
  rw [State.pathAbsent_fresh (by simpa using hf) (by simpa using hm)]
  exact State.onlyAlarms_trans (State.report_onlyAlarms _ _ s) (State.reportFlows_onlyAlarms _)

/-- No deadline and no presence expiry of a fresh context is reached. -/
theorem State.ctx_fresh {s : State} (hf : s.flows = State.reset.flows) (hm : s.m = State.reset.m) (i : ContextId) :
    ∃ st, s.ctx i = Ctx.fresh st 0 := by
  cases i with
  | flow n => exact ⟨.none, State.flow_reset hf n⟩
  | m => exact ⟨.unseeded, hm⟩

theorem Ctx.not_due_fresh (st : CtxState) (p : Params) (q : Path)
    (timeout : Nat) (now : Time) : (Ctx.fresh st 0).seedingDue p now = false ∧ (Ctx.fresh st 0).gapDue p now = false ∧
      ((Ctx.fresh st 0).pres q).expired timeout now = false := by
  refine ⟨?_, ?_, ?_⟩
  · cases st <;> rfl
  · cases st <;> rfl
  · cases q <;> rfl

/-! ## What stands until the load instant -/

/-- What the law says of a part that is not at work. -/
structure State.Quiet (s : State) : Prop where
  flows : s.flows = State.reset.flows
  m : s.m = State.reset.m
  pool : s.pool = State.reset.pool
  sched : s.sched = State.reset.sched
  out : s.out.buffer = none
  tables : s.tables = State.reset.tables
  strays : s.strays = []
  store : s.store.state = .idle
  commands : s.agent.commands = []
  replies : s.agent.replies = []
  restart : s.agent.restartWaiting = false
  reception : ∀ p, (s.rx p).reception = none
  held : s.phase.counting = false → s.timeBase = 0 ∧ ∀ p, (s.rx p).state = .down

theorem State.quietUntilLoaded_iff (s : State) : s.quietUntilLoaded ↔ (s.phase ≠ .active → s.Quiet) := by
  unfold State.quietUntilLoaded
  refine imp_congr_right fun _ => ⟨?_, ?_⟩
  · rintro ⟨h1, h2, h3, h4, h5, h6, h7, h8, h9, h10, h11, ha, hb, hc⟩
    refine ⟨h1, h2, h3, h4, h5, h6, h7, h8, h9, h10, h11, by rintro (_ | _) <;> assumption, fun h => ?_⟩
    obtain ⟨ht, hda, hdb⟩ := hc h
    exact ⟨ht, by rintro (_ | _) <;> assumption⟩
  · rintro ⟨h1, h2, h3, h4, h5, h6, h7, h8, h9, h10, h11, hr, hc⟩
    exact ⟨h1, h2, h3, h4, h5, h6, h7, h8, h9, h10, h11, hr .a, hr .b, fun h =>
      ⟨(hc h).1, (hc h).2 .a, (hc h).2 .b⟩⟩

/-- A receiver with no cell in reception may be written, in DOWN while the part is held. -/
theorem State.Quiet.setRx {s : State} (h : s.Quiet) (p : Path) {r : Receiver} (hr : r.reception = none)
    (hd : s.phase.counting = false → r.state = .down) : (s.setRx p r).Quiet := by
  obtain ⟨h1, h2, h3, h4, h5, h6, h7, h8, h9, h10, h11, hrec, hc⟩ := h
  refine ⟨by simpa, by simpa, by simpa, by simpa, by simpa, by simpa, by simpa, by simpa, by simpa, by simpa, by simpa,
    fun q => ?_, fun e => ?_⟩
  · rw [State.rx_setRx]; split
    · exact hr
    · exact hrec q
  · simp only [State.setRx_keeps] at e ⊢
    refine ⟨(hc e).1, fun q => ?_⟩
    rw [State.rx_setRx]; split
    · exact hd e
    · exact (hc e).2 q

theorem State.Quiet.onlyAlarms {s t : State} (h : s.Quiet) (ha : s.onlyAlarms t) : t.Quiet := by
  obtain ⟨h1, h2, h3, h4, h5, h6, h7, h8, h9, h10, h11, hrec, hc⟩ := h
  obtain ⟨e, -, -⟩ := ha
  rw [e]
  exact ⟨h1, h2, h3, h4, h5, h6, h7, h8, h9, h10, h11, by rintro (_ | _); exacts [hrec .a, hrec .b],
    fun hp => ⟨(hc hp).1, by rintro (_ | _); exacts [(hc hp).2 .a, (hc hp).2 .b]⟩⟩

theorem State.Quiet.countPath {s : State} (h : s.Quiet) (p : Path) (f : PathCounters → PathCounters) :
    (s.countPath p f).Quiet := by
  obtain ⟨h1, h2, h3, h4, h5, h6, h7, h8, h9, h10, h11, hrec, hc⟩ := h
  cases p <;> exact ⟨h1, h2, h3, h4, h5, h6, h7, h8, h9, h10, h11, by rintro (_ | _); exacts [hrec .a, hrec .b],
    fun hp => ⟨(hc hp).1, by rintro (_ | _); exacts [(hc hp).2 .a, (hc hp).2 .b]⟩⟩

/-- Where time counts, receivers are free: a state that is quiet but for line stages, alarms, pins and strap. -/
theorem State.Quiet.of_eq {s t : State} (h : s.Quiet) (hp : t.phase = s.phase) (htb : t.timeBase = s.timeBase)
    (ha : t.rxA = s.rxA) (hb : t.rxB = s.rxB) (hf : t.flows = s.flows) (hm : t.m = s.m) (hpool : t.pool = s.pool)
    (hsched : t.sched = s.sched) (hout : t.out.buffer = none) (htab : t.tables = s.tables) (hst : t.strays = s.strays)
    (hstore : t.store = s.store) (hagent : t.agent = s.agent) : t.Quiet := by
  obtain ⟨h1, h2, h3, h4, h5, h6, h7, h8, h9, h10, h11, hrec, hc⟩ := h
  have hrx := State.rx_of_rxA_rxB ha hb
  refine ⟨hf.trans h1, hm.trans h2, hpool.trans h3, hsched.trans h4, hout, htab.trans h6, hst.trans h7,
    by rw [hstore]; exact h8, by rw [hagent]; exact h9, by rw [hagent]; exact h10, by rw [hagent]; exact h11,
    fun q => by rw [hrx]; exact hrec q, fun e => ?_⟩
  rw [hp] at e
  exact ⟨htb.trans (hc e).1, fun q => by rw [hrx]; exact (hc e).2 q⟩

theorem Store.abandon_state (store : Store) : store.abandon.state = .idle := by
  unfold Store.abandon
  split
  · assumption
  · rfl

/-- A part with the full reset applied is quiet. -/
theorem State.Quiet.fullReset (phase : Phase) (s : State) : (s.fullReset phase).Quiet :=
  ⟨rfl, rfl, rfl, rfl, rfl, rfl, rfl, Store.abandon_state _, rfl, rfl, rfl, by rintro (_ | _) <;> rfl,
    fun _ => ⟨rfl, by rintro (_ | _) <;> rfl⟩⟩

/-- The release of a quiet part leaves it quiet (R195, R196). -/
theorem State.Quiet.releaseReset {s : State} (h : s.Quiet) (addr : BitVec 5) : (s.releaseReset addr).Quiet := by
  obtain ⟨h1, h2, h3, h4, h5, h6, h7, h8, h9, h10, h11, hrec, -⟩ := h
  have hr : ∀ r : Receiver, r.reception = none → r.released.reception = none := fun r hr => by
    unfold Receiver.released; split <;> exact hr
  exact ⟨h1, h2, h3, h4, h5, h6, h7, h8, h9, h10, h11, by rintro (_ | _); exacts [hr _ (hrec .a), hr _ (hrec .b)],
    fun e => absurd e (by simp [State.releaseReset, Phase.counting])⟩

/-- A header judged in the STARTING phase is discarded uncounted (R123). -/
theorem State.judgeHeader_idle {s : State} (h : s.phase ≠ .active) (p : Path) (header : BitVec 48) :
    s.judgeHeader p header = s := by
  obtain ⟨-, e⟩ | ⟨e, -⟩ := State.judgeHeader_cases p header s
  · exact e
  · exact absurd e h

theorem State.Quiet.leftUp {s : State} (h : s.Quiet) (p : Path) : (s.leftUp p).Quiet :=
  h.onlyAlarms (State.leftUp_fresh h.flows h.m p)

/-- Outside DOWN a quiet part's time counts. -/
theorem State.Quiet.counting {s : State} (h : s.Quiet) {p : Path} (hd : (s.rx p).state ≠ .down) :
    s.phase.counting ≠ false := fun e => hd ((h.held e).2 p)

theorem State.Quiet.headerInCheck {s : State} (h : s.Quiet) (hp : s.phase ≠ .active) {p : Path} (header : BitVec 48)
    (check : (s.rx p).state = .check) : (s.headerInCheck p header).Quiet := by
  have hc := h.counting (p := p) (by rw [check]; simp)
  obtain ⟨r, e, -, hr⟩ | ⟨r, f, e, -, hr⟩ := State.headerInCheck_cases header check <;> rw [e]
  · exact h.setRx p (hr.trans (h.reception p)) fun e => absurd e hc
  · rw [State.judgeHeader_idle (by simpa using hp)]
    exact ((h.setRx p hr fun e => absurd e hc).countPath p f).onlyAlarms (State.report_onlyAlarms _ _ _)

theorem State.Quiet.headerInUp {s : State} (h : s.Quiet) (hp : s.phase ≠ .active) {p : Path} (header : BitVec 48)
    (up : (s.rx p).state = .up) : (s.headerInUp p header).Quiet := by
  have hc := h.counting (p := p) (by rw [up]; simp)
  obtain ⟨r, e, -, hr⟩ | ⟨r, r', e, -, -, hr'⟩ := State.headerInUp_cases p header s <;> rw [e]
  · rw [State.judgeHeader_idle (by simpa using hp)]
    exact h.setRx p hr fun e => absurd e hc
  · refine State.Quiet.leftUp ?_ p
    rw [State.judgeHeader_idle (by simpa using hp)]
    have h1 : (s.setRx p r').Quiet := h.setRx p hr' fun e => absurd e hc
    cases p <;> exact h1

/-- A quiet part has no deadline and no presence expiry that is reached. -/
theorem State.Quiet.not_due {s : State} (h : s.Quiet) (i : ContextId) (p : Params) (q : Path) (timeout : Nat)
    (now : Time) : (s.ctx i).seedingDue p now = false ∧ (s.ctx i).gapDue p now = false ∧
      ((s.ctx i).pres q).expired timeout now = false := by
  obtain ⟨st, e⟩ := State.ctx_fresh h.flows h.m i
  rw [e]
  exact Ctx.not_due_fresh st p q timeout now

/-- Ticks pass over a quiet part. -/
theorem State.Quiet.advance {s : State} (h : s.Quiet) (d : Time) : (s.advance d).Quiet := by
  by_cases hc : s.phase.counting = true
  · obtain ⟨h1, h2, h3, h4, h5, h6, h7, h8, h9, h10, h11, hrec, -⟩ := h
    have e : s.advance d = { s with timeBase := s.timeBase + d } := if_pos hc
    rw [e]
    exact ⟨h1, h2, h3, h4, h5, h6, h7, h8, h9, h10, h11, by rintro (_ | _); exacts [hrec .a, hrec .b],
      fun e => by rw [hc] at e; cases e⟩
  · have e : s.advance d = s := if_neg hc
    rw [e]
    exact h

/-- The agent's settling leaves the phase, and so does what leads to it. -/
theorem Effect.keeps_quiet {s t : State} (h : s.phase ≠ .active → s.Quiet) (he : Effect s t) :
    t.phase ≠ .active → t.Quiet := by
  cases he with
  | still => exact h
  | powerUp => exact fun _ => (State.Quiet.fullReset _ s).of_eq rfl rfl rfl rfl rfl rfl rfl rfl rfl rfl rfl rfl rfl
  | resetPin => exact fun _ => State.Quiet.fullReset _ s
  | released addr held => exact fun _ => (h (by rintro e; rw [e] at held; cases held)).releaseReset addr
  | loaded starting =>
    obtain ⟨e, -, -⟩ := State.loadInstant_onlyAlarms s
    exact fun hp => absurd (by rw [e]; rfl) hp
  | detected p =>
    intro hp
    have q := h (by simpa using hp)
    refine q.setRx p ?_ fun e => ?_
    · unfold Receiver.released
      split
      · split <;> exact q.reception p
      · exact q.reception p
    · rw [if_neg (by rw [e]; simp)]
      exact (q.held e).2 p
  | lost p out => exact fun hp => (h (by simpa using hp)).setRx p rfl fun _ => rfl
  | lostUp p last up =>
    intro hp
    have hk := (State.onlyMerge_keeps (State.leftUp_onlyMerge p
      ((s.lastOrCut p last).2.setRx p (Receiver.down false)))).2.1
    have q := h (by simpa [hk] using hp)
    obtain ⟨-, e⟩ | ⟨hd, -, -, hr, -⟩ | ⟨hd, hr, -⟩ := State.lastOrCut_cases p last s
    · rw [e]
      exact (q.setRx p rfl fun _ => rfl).leftUp p
    · exact absurd (hr.symm.trans (q.reception p)) (by simp)
    · exact absurd (hr.symm.trans (q.reception p)) (by simp)
  | found p hunt =>
    intro hp
    have q := h (by simpa using hp)
    exact q.setRx p (q.reception p) fun e => absurd e (q.counting (p := p) (by rw [hunt]; simp))
  | hunted p bytes recent hunt tested =>
    intro hp
    have q := h (by simpa using hp)
    exact q.setRx p (q.reception p) fun e => absurd e (q.counting (p := p) (by rw [hunt]; simp))
  | checked p header check =>
    intro hp
    have hk : (s.headerInCheck p header).phase = s.phase := by
      obtain ⟨r, e, -⟩ | ⟨r, f, e, -⟩ := State.headerInCheck_cases header check <;> rw [e]
      · simp
      · simp [State.judgeHeader_keeps]
    rw [hk] at hp
    exact (h hp).headerInCheck hp header check
  | judged p header up =>
    intro hp
    have hk : (s.headerInUp p header).phase = s.phase := by
      obtain ⟨r, e, -⟩ | ⟨r, r', e, -⟩ := State.headerInUp_cases p header s <;> rw [e]
      · simp [State.judgeHeader_keeps]
      · rw [(State.onlyMerge_keeps (State.leftUp_onlyMerge p _)).2.1]
        simp [State.judgeHeader_keeps]
    rw [hk] at hp
    exact (h hp).headerInUp hp header up
  | ended p hd payload check receiving =>
    intro hp
    have q := h (by simpa using hp)
    exact absurd (receiving.symm.trans (q.reception p)) (by simp)
  | seeding i due =>
    intro hp
    have q := h (by cases i <;> simpa [State.expireSeeding] using hp)
    rw [(q.not_due i _ .a 0 _).1] at due
    cases due
  | gap i due =>
    intro hp
    have q := h (by cases i <;> simpa [State.expireGap] using hp)
    rw [(q.not_due i _ .a 0 _).2.1] at due
    cases due
  | presence i p due =>
    intro hp
    have q := h (by cases i <;> simpa [State.expirePresence] using hp)
    rw [(q.not_due i (s.params i) p _ _).2.2] at due
    cases due
  | boundary active due =>
    intro hp
    obtain ⟨-, e⟩ | ⟨tag, -, e⟩ := State.roundBoundary_cases s <;> rw [e] at hp
    · exact absurd active hp
    · rw [(State.fillReserved_keeps _ _ _ _).2.1,
        (State.onlyMerge_keeps (State.commitContexts_onlyMerge s.rewound)).2.1] at hp
      exact absurd active hp
  | outSilent held =>
    intro hp
    exact (h hp).of_eq rfl rfl rfl rfl rfl rfl rfl rfl (h hp).out rfl rfl rfl rfl
  | outStarting starting =>
    intro hp
    exact (h hp).of_eq rfl rfl rfl rfl rfl rfl rfl rfl rfl rfl rfl rfl rfl
  | outActive active => exact fun hp => absurd active (by simpa using hp)
  | returnSilent addr held =>
    intro hp
    exact (h hp).of_eq rfl rfl rfl rfl rfl rfl rfl rfl (h hp).out rfl rfl rfl rfl
  | returnStarting addr starting =>
    intro hp
    exact (h hp).of_eq rfl rfl rfl rfl rfl rfl rfl rfl (h hp).out rfl rfl rfl rfl
  | returnActive addr active =>
    intro hp
    obtain ⟨-, e⟩ | ⟨r, left, -, ⟨-, e⟩ | ⟨-, e⟩⟩ := State.returnTake_cases addr { s with addrPins := addr } <;>
      rw [e] at hp ⊢
    · exact absurd active hp
    · exact (State.Quiet.fullReset _ _).releaseReset addr
    · exact absurd active (by simpa using hp)
  | notified ready =>
    exact fun hp => absurd (by simp only [State.notifyReady, Bool.and_eq_true, decide_eq_true_eq] at ready; exact
      ready.1.1.1.1) hp
  | written ok slot image writing =>
    intro hp
    obtain ⟨e, -, -⟩ := State.endWrite_onlyAlarms ok slot image s
    rw [e] at hp
    have q := h hp
    exact absurd (writing.symm.trans q.store) (by simp)
  | command c active => exact fun hp => absurd active (by simpa using hp)

/-- Settles O51: outside the working phase no effect reaches what the law names, and a full reset writes it. -/
theorem quietUntilLoadedIsKept : Obligations.QuietUntilLoadedIsKept := by
  intro s t hs hstep
  rw [State.quietUntilLoaded_iff] at hs ⊢
  refine step_leads (P := fun u => u.phase ≠ .active → u.Quiet) (Q := fun u => u.phase ≠ .active → u.Quiet) ?_ ?_ ?_ s t
    hs hstep
  · exact fun u rest hu hp => (hu hp).of_eq rfl rfl rfl rfl rfl rfl rfl rfl (hu hp).out rfl rfl rfl rfl
  · exact fun u d hu hp => (hu (by simpa using hp)).advance d
  · exact fun u v hu he => Effect.keeps_quiet hu he

end Sys2Proof.Machine
end

section
/-! PROOFS. The calendar position stays inside the ACTIVE Calendar (R81, R82): it is written 0, or advanced where the
boundary is not due, and ACTIVE changes at a boundary or at the load instant alone. -/

namespace Sys2Proof.Machine

open Sys2Proof

theorem State.positionInCalendar_of_eq {s t : State} (h : s.positionInCalendar)
    (hp : t.sched.position = s.sched.position) (ha : t.tables.active = s.tables.active) : t.positionInCalendar := by
  unfold State.positionInCalendar
  rw [hp, ha]
  exact h

/-- Position 0 lies in every Calendar that has a position. -/
theorem State.positionInCalendar_zero {s : State} (hp : s.sched.position = 0) (hl : 1 ≤ s.tables.active.calendar.length) :
    s.positionInCalendar := by
  unfold State.positionInCalendar
  omega

theorem State.positionInCalendar_onlyMerge {s t : State} (h : s.positionInCalendar) (hm : s.onlyMerge t) :
    t.positionInCalendar := by
  obtain ⟨-, -, -, -, -, -, -, -, ht, -, -, -, hp, -⟩ := State.onlyMerge_keeps hm
  exact State.positionInCalendar_of_eq h hp (by rw [ht])

/-- A command leaves ACTIVE, and the position too but for a traffic restart, which writes it 0 (R200). -/
theorem Executed.position {c : Command} {s t : State} (h : Executed c s t) :
    t.tables.active = s.tables.active ∧ (t.sched.position = s.sched.position ∨ t.sched.position = 0) := by
  cases h with
  | answered | lowWater | deviceCleared | alarmsCleared | pendingWritten | committed | straysCleared | saved | loadEmpty
  | restartQueued => exact ⟨rfl, .inl rfl⟩
  | cleared i => cases i <;> exact ⟨rfl, .inl rfl⟩
  | settingsWritten u =>
    obtain ⟨-, -, -, -, -, -, -, -, ht, -, -, -, hp, -⟩ := State.onlyMerge_keeps (State.writeSettings_onlyMerge u s)
    have ha : (s.writeSettings u).tables.active = s.tables.active := by rw [ht]; rfl
    exact ⟨ha, .inl hp⟩
  | imageLoaded slot image =>
    obtain ⟨-, -, -, -, -, -, -, -, ht, -, -, -, hp, -⟩ := State.onlyMerge_keeps (State.writeSettings_onlyMerge
      image.settings (State.writePending image.bank { s with store := s.store.consult }))
    have ha : (State.writeSettings image.settings (State.writePending image.bank
      { s with store := s.store.consult })).tables.active = s.tables.active := by rw [ht]; rfl
    exact ⟨ha, .inl hp⟩
  | flushed n =>
    obtain ⟨-, -, -, -, -, -, -, -, ht, -, -, -, hp, -⟩ := State.onlyMerge_keeps (State.flushFlow_onlyMerge n s)
    exact ⟨congrArg Tables.active ht, .inl hp⟩
  | restarted => exact ⟨by simp [State.trafficRestart], .inr (by simp [State.trafficRestart])⟩

theorem Executed.keeps_position {c : Command} {s t : State} (hs : s.positionInCalendar) (h : Executed c s t) :
    t.positionInCalendar := by
  obtain ⟨ha, hp | hp⟩ := h.position
  · exact State.positionInCalendar_of_eq hs hp ha
  · refine State.positionInCalendar_zero hp ?_
    rw [ha]
    exact Nat.lt_of_le_of_lt (Nat.zero_le _) hs

theorem State.positionInCalendar_settleAgent {s : State} (hs : s.positionInCalendar) :
    s.settleAgent.positionInCalendar :=
  State.settle_keeps (P := State.positionInCalendar)
    (fun u hu => State.positionInCalendar_onlyMerge hu (State.settleM_onlyMerge u))
    (fun _ rest u _ hu _ _ hx => Executed.keeps_position (s := { u with agent := { u.agent with commands := rest } }) hu hx)
    (fun _ _ hu => State.positionInCalendar_of_eq hu (by simp) (by simp)) _ _ s hs

theorem State.positionInCalendar_takeDelivered (b : Option Buffer) {s : State} (hs : s.positionInCalendar) :
    (State.takeDelivered b s).positionInCalendar := by
  cases b with
  | none => exact hs
  | some b =>
    rw [State.takeDelivered_some]
    obtain ⟨-, e⟩ | ⟨-, -, e⟩ | ⟨n, -, -, -, e⟩ | ⟨n, -, -, -, e⟩ := State.classify_cases b s <;> rw [e]
    · have hm := State.onlyMerge_trans
        (State.moveBuffers_onlyMerge (s.m.judge s.mParams s.tables.settings.skewTicks s.pool.free b) s)
        (State.latchAll_onlyMerge (s.m.judge s.mParams s.tables.settings.skewTicks s.pool.free b).events _)
      have h1 := State.positionInCalendar_onlyMerge hs hm
      exact State.positionInCalendar_settleAgent (State.positionInCalendar_of_eq h1 rfl rfl)
    · exact State.positionInCalendar_of_eq hs (by simp) (by simp)
    · exact State.positionInCalendar_onlyMerge hs (State.arriveFlow_onlyMerge n b s)
    · exact State.positionInCalendar_of_eq hs (by simp) (by simp)

/-- A round boundary leaves position 0, in a Calendar that has a position (R7, R81, R138). -/
theorem State.positionInCalendar_roundBoundary {s : State} (ht : s.tablesInRange) : s.roundBoundary.positionInCalendar := by
  obtain ⟨⟨-, -, -, ha, -⟩, ⟨-, -, -, hp, -⟩, -⟩ := ht
  obtain ⟨-, e⟩ | ⟨tag, -, e⟩ := State.roundBoundary_cases s <;> rw [e]
  · exact State.positionInCalendar_zero (s := s.rewound) rfl ha
  · have hc : s.rewound.commitContexts.positionInCalendar := State.positionInCalendar_onlyMerge
      (s := s.rewound.commitTables) (State.positionInCalendar_zero rfl hp) (State.commitContexts_onlyMerge _)
    exact State.positionInCalendar_of_eq hc (by simp) (by simp)

theorem State.positionInCalendar_advancePosition {s : State} (ht : s.tablesInRange) (hs : s.positionInCalendar) :
    s.advancePosition.positionInCalendar := by
  obtain ⟨-, e⟩ | ⟨hb, hu, e⟩ | ⟨-, e⟩ := State.advancePosition_cases s <;> rw [e]
  · exact State.positionInCalendar_roundBoundary ht
  · simp only [State.boundaryDue, hu, Bool.true_and, decide_eq_false_iff_not] at hb
    exact Nat.lt_of_not_le hb
  · exact hs

theorem Effect.keeps_position {s t : State} (hq : s.quietUntilLoaded) (ht : s.tablesInRange) (hs : s.positionInCalendar)
    (he : Effect s t) : t.positionInCalendar := by
  have hstart : ∀ u : State, u.sched.position = 0 → u.tables.active = Bank.default → u.positionInCalendar :=
    fun u h1 h2 => State.positionInCalendar_zero h1 (by rw [h2]; decide)
  have kept := fun (u : State) (h1 : u.sched = s.sched) (h2 : u.tables = s.tables) =>
    State.positionInCalendar_of_eq (t := u) hs (by rw [h1]) (by rw [h2])
  cases he with
  | still | released | outSilent | outStarting | returnSilent | returnStarting | notified => exact hs
  | powerUp | resetPin => exact hstart _ rfl rfl
  | loaded starting =>
    have hb := (Store.loaded_inRange (store := s.store.consult) fun i hi =>
      ht.2.2.2 i (Store.mem_images_consult hi)).1
    have hsched := ((s.quietUntilLoaded_iff.mp hq) (by rw [starting]; simp)).sched
    exact State.positionInCalendar_onlyMerge (s := s.loadedTables)
      (State.positionInCalendar_zero (congrArg Scheduler.position hsched) hb.2.2.2.1)
      (State.onlyMerge_of_onlyAlarms (State.loadInstant_onlyAlarms s))
  | detected | lost | found | hunted => exact kept _ (by simp) (by simp)
  | lostUp p last up =>
    exact State.positionInCalendar_takeDelivered _ (State.positionInCalendar_onlyMerge
      (kept _ (by simp) (by simp)) (State.leftUp_onlyMerge p _))
  | checked p header check =>
    obtain ⟨r, e, -⟩ | ⟨r, f, e, -⟩ := State.headerInCheck_cases header check <;> rw [e]
    · exact kept _ (by simp) (by simp)
    · exact kept _ (by simp [State.judgeHeader_keeps]) (by simp [State.judgeHeader_keeps])
  | judged p header up =>
    obtain ⟨r, e, -⟩ | ⟨r, r', e, -⟩ := State.headerInUp_cases p header s <;> rw [e]
    · exact kept _ (by simp [State.judgeHeader_keeps]) (by simp [State.judgeHeader_keeps])
    · exact State.positionInCalendar_onlyMerge
        (kept _ (by simp [State.judgeHeader_keeps]) (by simp [State.judgeHeader_keeps])) (State.leftUp_onlyMerge p _)
  | ended p hd payload check receiving =>
    exact State.positionInCalendar_takeDelivered _ (kept _ (by simp) (by simp))
  | seeding i due =>
    cases i with
    | flow n => exact State.positionInCalendar_onlyMerge hs (State.changeFlow_onlyMerge n _ s)
    | m => exact State.positionInCalendar_settleAgent (kept _ rfl rfl)
  | gap i due =>
    cases i with
    | flow n => exact State.positionInCalendar_onlyMerge (kept _ (by simp) (by simp)) (State.changeFlow_onlyMerge n _ _)
    | m => exact State.positionInCalendar_settleAgent (kept _ (by simp) (by simp))
  | presence i p due =>
    cases i with
    | flow n => exact State.positionInCalendar_onlyMerge hs (State.changeFlow_onlyMerge n _ s)
    | m => exact kept _ rfl rfl
  | boundary active due => exact State.positionInCalendar_roundBoundary ht
  | outActive active =>
    have hf : s.freeSent.tablesInRange := State.tableLaw_of_eq (P := fun _ tb store => inRanges tb store) ht
      (by simp) (by simp) (by simp)
    exact State.positionInCalendar_of_eq (State.positionInCalendar_advancePosition hf (kept _ (by simp) (by simp)))
      (by simp) (by simp)
  | returnActive addr active =>
    obtain ⟨-, e⟩ | ⟨r, left, -, ⟨-, e⟩ | ⟨-, e⟩⟩ := State.returnTake_cases addr { s with addrPins := addr } <;> rw [e]
    · exact hs
    · exact hstart _ rfl rfl
    · exact State.positionInCalendar_settleAgent (kept _ rfl rfl)
  | written ok slot image writing =>
    exact State.positionInCalendar_onlyMerge (s := s.writeEnded ok slot image) (kept _ rfl rfl)
      (State.onlyMerge_of_onlyAlarms (State.endWrite_onlyAlarms ok slot image s))
  | command c active => exact State.positionInCalendar_settleAgent (kept _ (by simp) (by simp))

/-- Ticks leave the law of the quiet part. -/
theorem State.quietUntilLoaded_advance {s : State} (h : s.quietUntilLoaded) (d : Time) :
    (s.advance d).quietUntilLoaded := by
  rw [State.quietUntilLoaded_iff] at h ⊢
  exact fun hp => (h (by simpa using hp)).advance d

/-- Settles O55: the ranges are closed under every change of tables and store, and the position is written 0 or advanced
where the boundary is not due. -/
theorem tablesAndPositionStayInRange : Obligations.TablesAndPositionStayInRange := by
  refine ⟨step_keeps_tablesInRange, fun s t hq ht hs => step_leads
    (P := fun u => u.quietUntilLoaded ∧ u.tablesInRange ∧ u.positionInCalendar) (Q := State.positionInCalendar)
    (fun _ _ h => h) ?_ (fun _ _ ⟨hq, ht, hs⟩ he => he.keeps_position hq ht hs) s t ⟨hq, ht, hs⟩⟩
  rintro u d ⟨hq, ht, hs⟩
  exact ⟨State.quietUntilLoaded_advance hq d, State.tableLaw_of_eq (P := fun _ tb store => inRanges tb store) ht
    (by simp) (by simp) (by simp), State.positionInCalendar_of_eq hs (by simp) (by simp)⟩

end Sys2Proof.Machine
end

section
/-! PROOFS. The agent's two queues (R133, R154, R156, R157, R172): their bounds, and which places are reserved. -/

namespace Sys2Proof.Machine

open Sys2Proof

/-! ## The bounds -/

theorem State.queuesBounded_of_eq {s t : State} (h : s.queuesBounded) (hc : t.agent.commands = s.agent.commands)
    (hr : t.agent.replies = s.agent.replies) : t.queuesBounded := by
  unfold State.queuesBounded
  rw [hc, hr]
  exact h

theorem State.queuesBounded_onlyMerge {s t : State} (h : s.queuesBounded) (hm : s.onlyMerge t) : t.queuesBounded := by
  obtain ⟨-, -, -, -, -, -, -, -, -, -, -, -, -, -, hc, hr, -⟩ := State.onlyMerge_keeps hm
  exact State.queuesBounded_of_eq h hc hr

/-- The agent's queues and what their reserved places wait for stand. -/
structure State.SameQueues (s t : State) : Prop where
  commands : t.agent.commands = s.agent.commands
  replies : t.agent.replies = s.agent.replies
  restart : t.agent.restartWaiting = s.agent.restartWaiting
  commit : t.tables.commit = s.tables.commit
  store : t.store.state = s.store.state

theorem State.sameQueues_onlyMerge {s t : State} (h : s.onlyMerge t) : s.SameQueues t := by
  obtain ⟨e, -, -⟩ := h
  rw [e]
  exact ⟨rfl, rfl, rfl, rfl, rfl⟩

theorem State.SameQueues.trans {s t u : State} (h : s.SameQueues t) (h' : t.SameQueues u) : s.SameQueues u :=
  ⟨h'.commands.trans h.commands, h'.replies.trans h.replies, h'.restart.trans h.restart, h'.commit.trans h.commit,
    h'.store.trans h.store⟩

/-- What the place a command adds says of the commit state, the store state and the restart-waiting flag behind it: a reply
says nothing, a reserved place belongs to the COMMIT or SAVE just begun, and the reply to RESTART FULL to the restart that
now waits (R155, R156, R172). -/
inductive PlaceAdded (s t : State) : Place → Prop
  | reply (r : Reply) (plain : r.restartsFull = false) (restart : t.agent.restartWaiting = s.agent.restartWaiting)
      (commit : t.tables.commit = s.tables.commit) (store : t.store.state = s.store.state) : PlaceAdded s t (.filled r)
  | commit (tag : Byte) (restart : t.agent.restartWaiting = s.agent.restartWaiting) (free : s.tables.commit = .none)
      (begun : t.tables.commit = .outstanding tag) (store : t.store.state = s.store.state) :
      PlaceAdded s t (.reserved tag commitCode)
  | save (tag : Byte) (slot : Bool) (image : Image) (restart : t.agent.restartWaiting = s.agent.restartWaiting)
      (commit : t.tables.commit = s.tables.commit) (idle : s.store.state = .idle)
      (begun : t.store.state = .writing slot image) : PlaceAdded s t (.reserved tag saveCode)
  | restart (r : Reply) (full : r.restartsFull = true) (waiting : t.agent.restartWaiting = true)
      (commit : t.tables.commit = s.tables.commit) (store : t.store.state = s.store.state) : PlaceAdded s t (.filled r)

/-- A command executed leaves the command queue and adds one place to the reply queue. -/
def State.AddsPlace (s t : State) : Prop :=
  t.agent.commands = s.agent.commands ∧ ∃ place, t.agent.replies = s.agent.replies ++ [place] ∧ PlaceAdded s t place

theorem State.SameQueues.answer {s u : State} (h : s.SameQueues u) (c : Command) (st : Status) (result : List Byte) :
    s.AddsPlace (u.answer c st result) :=
  ⟨h.commands, _, congrArg (· ++ [_]) h.replies, .reply _ rfl h.restart h.commit h.store⟩

/-- A traffic restart but for the alarms it reports (R200). -/
def State.restartedTraffic (s : State) : State :=
  { s with
    flows := s.tables.active.freshFlows
    m := Ctx.fresh .unseeded 0
    pool := { free := Config.poolSize, lowWater := Config.poolSize }
    sched := { position := 0, slotUsed := false, rings := List.replicate 8 [] }
    out := { s.out with buffer := none }
    device := DeviceCounters.zero
    strays := [] }

theorem State.trafficRestart_eq (s : State) :
    s.trafficRestart = (s.restartedTraffic.report .poolEmpty false).reportFlows := rfl

theorem State.trafficRestart_onlyMerge (s : State) : s.restartedTraffic.onlyMerge s.trafficRestart :=
  State.onlyMerge_of_onlyAlarms (State.onlyAlarms_trans (State.report_onlyAlarms _ _ _) (State.reportFlows_onlyAlarms _))

theorem Executed.addsPlace {c : Command} {s t : State} (h : Executed c s t) : s.AddsPlace t := by
  cases h with
  | answered st result => exact State.SameQueues.answer (s := s) ⟨rfl, rfl, rfl, rfl, rfl⟩ c st result
  | lowWater | deviceCleared | alarmsCleared | pendingWritten | straysCleared | loadEmpty =>
    refine State.SameQueues.answer (s := s) ?_ c _ _
    constructor <;> rfl
  | cleared i =>
    refine State.SameQueues.answer (s := s) ?_ c _ _
    cases i <;> constructor <;> rfl
  | settingsWritten u =>
    have hw := State.sameQueues_onlyMerge (State.writeSettings_onlyMerge u s)
    exact State.SameQueues.answer (.trans (s := s) (t := s.withSettings u) ⟨rfl, rfl, rfl, rfl, rfl⟩ hw) c _ _
  | imageLoaded slot image =>
    have hw := State.sameQueues_onlyMerge (State.writeSettings_onlyMerge image.settings
      (State.writePending image.bank { s with store := s.store.consult }))
    exact State.SameQueues.answer (.trans (s := s) (t := State.withSettings image.settings
      (State.writePending image.bank { s with store := s.store.consult })) ⟨rfl, rfl, rfl, rfl, rfl⟩ hw) c _ _
  | flushed n => exact (State.sameQueues_onlyMerge (State.flushFlow_onlyMerge n s)).answer c _ _
  | restarted =>
    have hr := State.sameQueues_onlyMerge (State.trafficRestart_onlyMerge s)
    exact State.SameQueues.answer (.trans (s := s) (t := s.restartedTraffic) ⟨rfl, rfl, rfl, rfl, rfl⟩ hr) c _ _
  | committed code free valid => exact ⟨rfl, _, rfl, by rw [code]; exact .commit _ rfl free rfl rfl⟩
  | saved code idle => exact ⟨rfl, _, rfl, by rw [code]; exact .save _ _ _ rfl rfl idle rfl⟩
  | restartQueued idle => exact ⟨rfl, _, rfl, .restart _ rfl rfl rfl rfl⟩

/-! ## What a law of the queues has to outlive -/

/-- The place reserved for a code is filled, the queues otherwise as they were (R156). -/
structure State.FillsPlace (code : Byte) (s t : State) : Prop where
  commands : t.agent.commands = s.agent.commands
  restart : t.agent.restartWaiting = s.agent.restartWaiting
  replies : ∃ form : Byte → Reply, (∀ tag, (form tag).restartsFull = false) ∧
    t.agent.replies = fillPlace code form s.agent.replies

/-- A law of the agent's queues is kept by each of the ways in which a step can change them. -/
structure QueueLaw (P : State → Prop) : Prop where
  same : ∀ {s t : State}, P s → s.SameQueues t → P t
  received : ∀ {s : State} (c : Command), P s → s.agent.commands.length < Config.commandPlaces →
    P { s with agent := { s.agent with commands := s.agent.commands ++ [c] } }
  executed : ∀ {s t : State} {c : Command} {rest : List Command}, P s → s.agent.placeFree = true →
    s.agent.commands = c :: rest → State.AddsPlace { s with agent := { s.agent with commands := rest } } t → P t
  notified : ∀ {s : State}, P s → s.agent.placeFree = true → P s.formNotification
  committed : ∀ {s t : State} {tag : Byte}, P s → s.tables.commit = .outstanding tag → s.FillsPlace commitCode t →
    t.tables.commit = .none → t.store.state = s.store.state → P t
  written : ∀ {s t : State} {slot : Bool} {image : Image}, P s → s.store.state = .writing slot image →
    s.FillsPlace saveCode t → t.tables.commit = s.tables.commit → t.store.state = .idle → P t
  taken : ∀ {s : State} {r : Reply} {left : List Place}, P s → takeFilled s.agent.replies = some (r, left) →
    r.restartsFull = false → P (s.sendReply r left)
  emptied : ∀ {s : State}, s.agent.commands = [] → s.agent.replies = [] → s.agent.restartWaiting = false →
    s.tables.commit = .none → s.store.state = .idle → P s

section
variable {P : State → Prop}

theorem QueueLaw.onlyMerge (law : QueueLaw P) {s t : State} (hs : P s) (h : s.onlyMerge t) : P t :=
  law.same hs (State.sameQueues_onlyMerge h)

theorem QueueLaw.deliver (law : QueueLaw P) (flags : Byte) (c : Command) {s : State} (hs : P s) :
    P (s.deliver flags c) := by
  unfold State.deliver
  split
  · unfold State.receiveCommand
    split
    · exact law.received c hs ‹_›
    · exact law.same hs (by constructor <;> simp)
  · exact law.same hs (by constructor <;> rfl)

theorem QueueLaw.handOverCell (law : QueueLaw P) (b : Buffer) {s : State} (hs : P s) : P (s.handOverCell b) := by
  unfold State.handOverCell State.handOver
  split
  · exact law.deliver _ _ (law.onlyMerge hs (State.freeBuffers_onlyMerge 1 s))
  · exact law.deliver _ _ hs

theorem QueueLaw.settleAgent (law : QueueLaw P) {s : State} (hs : P s) : P s.settleAgent := by
  refine State.settle_keeps (fun u hu => law.onlyMerge hu (State.settleM_onlyMerge u)) ?_
    (fun b u hu => law.handOverCell b hu) _ _ s hs
  intro c rest u t hu hx hc he
  simp only [Agent.canExecute, Bool.and_eq_true] at hx
  obtain ⟨-, free⟩ := hx
  exact law.executed hu free hc he.addsPlace

theorem QueueLaw.takeDelivered (law : QueueLaw P) (b : Option Buffer) {s : State} (hs : P s) :
    P (State.takeDelivered b s) := by
  cases b with
  | none => exact hs
  | some b =>
    rw [State.takeDelivered_some]
    obtain ⟨-, e⟩ | ⟨-, -, e⟩ | ⟨n, -, -, -, e⟩ | ⟨n, -, -, -, e⟩ := State.classify_cases b s <;> rw [e]
    · have hm := State.onlyMerge_trans
        (State.moveBuffers_onlyMerge (s.m.judge s.mParams s.tables.settings.skewTicks s.pool.free b) s)
        (State.latchAll_onlyMerge (s.m.judge s.mParams s.tables.settings.skewTicks s.pool.free b).events _)
      exact law.settleAgent (law.onlyMerge (law.onlyMerge hs hm) (State.m_onlyMerge _ _))
    · exact law.same hs (by constructor <;> simp)
    · exact law.onlyMerge hs (State.arriveFlow_onlyMerge n b s)
    · exact law.same hs (by constructor <;> simp)

theorem QueueLaw.lastByte (law : QueueLaw P) (p : Path) (h : Header) (payload check : List Byte) {s : State}
    (hs : P s) : P (s.lastByte p h payload check).2 := by
  obtain ⟨b, -, -, e⟩ | e := State.lastByte_cases p h payload check s <;> rw [e]
  · exact law.same hs (by constructor <;> simp)
  · exact law.same hs (by constructor <;> simp)

theorem QueueLaw.roundBoundary (law : QueueLaw P) {s : State} (hs : P s) : P s.roundBoundary := by
  obtain ⟨-, e⟩ | ⟨tag, hc, e⟩ := State.roundBoundary_cases s <;> rw [e]
  · exact law.same hs (by constructor <;> rfl)
  · have hm := State.sameQueues_onlyMerge (State.commitContexts_onlyMerge s.rewound)
    have hr : s.rewound.commitContexts.agent.replies = s.agent.replies := hm.replies
    exact law.committed hs hc ⟨hm.commands, hm.restart, _, fun _ => rfl, by rw [← hr]; rfl⟩ hm.commit hm.store

theorem QueueLaw.advancePosition (law : QueueLaw P) {s : State} (hs : P s) : P s.advancePosition := by
  obtain ⟨-, e⟩ | ⟨-, -, e⟩ | ⟨-, e⟩ := State.advancePosition_cases s <;> rw [e]
  · exact law.roundBoundary hs
  · exact law.same hs (by constructor <;> rfl)
  · exact hs

theorem QueueLaw.fullReset (law : QueueLaw P) (phase : Phase) (s : State) : P (s.fullReset phase) :=
  law.emptied rfl rfl rfl rfl (Store.abandon_state _)

theorem QueueLaw.keeps (law : QueueLaw P) {s t : State} (loaded : s.phase = .starting → P s.loadInstant) (hs : P s)
    (he : Effect s t) : P t := by
  cases he with
  | still => exact hs
  | powerUp => exact law.emptied rfl rfl rfl rfl (Store.abandon_state _)
  | resetPin => exact law.fullReset _ s
  | released | outSilent | outStarting | returnSilent | returnStarting => exact law.same hs (by constructor <;> rfl)
  | loaded starting => exact loaded starting
  | detected | lost | found | hunted => exact law.same hs (by constructor <;> simp)
  | lostUp p last up =>
    refine law.takeDelivered _ (law.onlyMerge (law.same (s := (s.lastOrCut p last).2) ?_ (by constructor <;> simp))
      (State.leftUp_onlyMerge p _))
    obtain ⟨-, e⟩ | ⟨h, payload, check, -, -, e⟩ | ⟨h, -, -, e⟩ := State.lastOrCut_cases p last s <;> rw [e]
    · exact hs
    · exact law.lastByte p h payload check hs
    · exact law.same hs (by constructor <;> simp)
  | checked p header check =>
    obtain ⟨r, e, -⟩ | ⟨r, f, e, -⟩ := State.headerInCheck_cases header check <;> rw [e]
    · exact law.same hs (by constructor <;> simp)
    · exact law.same hs (by constructor <;> simp [State.judgeHeader_keeps])
  | judged p header up =>
    obtain ⟨r, e, -⟩ | ⟨r, r', e, -⟩ := State.headerInUp_cases p header s <;> rw [e]
    · exact law.same hs (by constructor <;> simp [State.judgeHeader_keeps])
    · exact law.onlyMerge (law.same hs (by constructor <;> simp [State.judgeHeader_keeps])) (State.leftUp_onlyMerge p _)
  | ended p h payload check receiving => exact law.takeDelivered _ (law.lastByte p h payload check hs)
  | seeding i due =>
    cases i with
    | flow n => exact law.onlyMerge hs (State.changeFlow_onlyMerge n _ s)
    | m => exact law.settleAgent (law.onlyMerge hs (State.m_onlyMerge _ s))
  | gap i due =>
    have hl := law.onlyMerge hs (State.latch_onlyMerge .loss s)
    cases i with
    | flow n => exact law.onlyMerge hl (State.changeFlow_onlyMerge n _ _)
    | m => exact law.settleAgent (law.onlyMerge hl (State.m_onlyMerge _ _))
  | presence i p due =>
    cases i with
    | flow n => exact law.onlyMerge hs (State.changeFlow_onlyMerge n _ s)
    | m => exact law.onlyMerge hs (State.m_onlyMerge _ s)
  | boundary active due => exact law.roundBoundary hs
  | outActive active =>
    have hf : P s.freeSent := by
      unfold State.freeSent
      split
      · exact law.onlyMerge (law.same hs (by constructor <;> rfl)) (State.freeBuffers_onlyMerge 1 _)
      · exact hs
    exact law.same (law.advancePosition hf) (by constructor <;> simp)
  | returnActive addr active =>
    obtain ⟨-, e⟩ | ⟨r, left, ht, ⟨-, e⟩ | ⟨hr, e⟩⟩ := State.returnTake_cases addr { s with addrPins := addr } <;> rw [e]
    · exact law.same hs (by constructor <;> rfl)
    · exact law.emptied rfl rfl rfl rfl (Store.abandon_state _)
    · exact law.settleAgent (law.taken (law.same hs (by constructor <;> rfl)) ht hr)
  | notified ready =>
    simp only [State.notifyReady, Bool.and_eq_true] at ready
    obtain ⟨⟨-, free⟩, -⟩ := ready
    exact law.notified hs free
  | written ok slot image writing =>
    have hw : P (s.writeEnded ok slot image) :=
      law.written hs writing ⟨rfl, rfl, _, fun _ => rfl, rfl⟩ rfl (by cases slot <;> rfl)
    exact law.onlyMerge hw (State.onlyMerge_of_onlyAlarms (State.endWrite_onlyAlarms ok slot image s))
  | command c active => exact law.settleAgent (law.deliver _ c hs)

end

/-! ## The two laws -/

theorem takeFilled_length {places left : List Place} {r : Reply} (h : takeFilled places = some (r, left)) :
    left.length ≤ places.length := by
  obtain ⟨ahead, behind, -, rfl, rfl⟩ := takeFilled_split places r left h
  simp

theorem queuesBounded_queueLaw : QueueLaw State.queuesBounded where
  same hs h := State.queuesBounded_of_eq hs h.commands h.replies
  received c hs h := ⟨by rw [List.length_append]; exact h, hs.2⟩
  executed := by
    rintro s t c rest ⟨hc, -⟩ free e ⟨hcs, place, hr, -⟩
    rw [e, List.length_cons] at hc
    refine ⟨?_, ?_⟩
    · rw [hcs]
      exact Nat.le_of_succ_le hc
    · rw [hr, List.length_append]
      exact of_decide_eq_true free
  notified hs free := ⟨hs.1, by
    simp only [State.formNotification, State.addPlace_replies, List.length_append]
    exact of_decide_eq_true free⟩
  committed := by
    rintro s t tag ⟨hc, hr⟩ - ⟨ec, -, form, -, er⟩ - -
    exact ⟨by rw [ec]; exact hc, by rw [er, fillPlace_length]; exact hr⟩
  written := by
    rintro s t slot image ⟨hc, hr⟩ - ⟨ec, -, form, -, er⟩ - -
    exact ⟨by rw [ec]; exact hc, by rw [er, fillPlace_length]; exact hr⟩
  taken hs h _ := ⟨hs.1, (takeFilled_length h).trans hs.2⟩
  emptied hc hr _ _ _ := by simp [State.queuesBounded, hc, hr]

@[simp] theorem reservations_filled (r : Reply) (places : List Place) :
    (Place.filled r :: places).filterMap Place.reservation = places.filterMap Place.reservation := rfl

@[simp] theorem reservations_reserved (tag code : Byte) (places : List Place) :
    (Place.reserved tag code :: places).filterMap Place.reservation
      = (tag, code) :: places.filterMap Place.reservation := rfl

/-- Filling a place takes the oldest reservation of its code away. -/
theorem fillPlace_reservations (code : Byte) (form : Byte → Reply) : ∀ places : List Place,
    (fillPlace code form places).filterMap Place.reservation
      = (places.filterMap Place.reservation).eraseP (fun r => r.2 == code)
  | [] => rfl
  | .filled r :: rest => by
    simpa [fillPlace] using fillPlace_reservations code form rest
  | .reserved tag c :: rest => by
    unfold fillPlace
    split
    · next h => simp [h]
    · next h => simpa [h] using fillPlace_reservations code form rest

theorem fillPlace_restarts (code : Byte) {form : Byte → Reply} (plain : ∀ tag, (form tag).restartsFull = false) :
    ∀ places : List Place, (fillPlace code form places).any Place.restarts = places.any Place.restarts
  | [] => rfl
  | .filled r :: rest => by
    simpa [fillPlace] using congrArg (Place.restarts (.filled r) || ·) (fillPlace_restarts code plain rest)
  | .reserved tag c :: rest => by
    unfold fillPlace
    split
    · simp [Place.restarts, plain]
    · simpa [Place.restarts] using fillPlace_restarts code plain rest

/-- Of one code, erasing its oldest reservation leaves the others. -/
theorem filter_eraseP_same {α : Type} (p : α → Bool) : ∀ l : List α, (l.eraseP p).filter p = (l.filter p).tail
  | [] => rfl
  | x :: l => by
    by_cases h : p x = true
    · simp [h]
    · simpa [h] using filter_eraseP_same p l

/-- Of another code, it leaves all. -/
theorem filter_eraseP_other {α : Type} {p q : α → Bool} (apart : ∀ x, p x = true → q x = false) :
    ∀ l : List α, (l.eraseP p).filter q = l.filter q
  | [] => rfl
  | x :: l => by
    by_cases h : p x = true
    · simp [h, apart x h]
    · simpa [h, List.filter_cons] using congrArg (fun r => if q x then x :: r else r) (filter_eraseP_other apart l)

theorem commitCode_ne_saveCode : commitCode ≠ saveCode := by decide

/-- The reservations a fill leaves, by code. -/
theorem State.FillsPlace.reservedFor {code : Byte} {s t : State} (h : s.FillsPlace code t) :
    t.agent.reservedFor code = (s.agent.reservedFor code).tail ∧
    (∀ other, other ≠ code → t.agent.reservedFor other = s.agent.reservedFor other) ∧
    (∀ r ∈ t.agent.replies.filterMap Place.reservation, r ∈ s.agent.replies.filterMap Place.reservation) ∧
    t.agent.replies.any Place.restarts = s.agent.replies.any Place.restarts := by
  obtain ⟨-, -, form, plain, er⟩ := h
  unfold Agent.reservedFor
  rw [er, fillPlace_reservations]
  refine ⟨filter_eraseP_same _ _, fun other ho => filter_eraseP_other ?_ _, fun r hr => List.mem_of_mem_eraseP hr,
    fillPlace_restarts code plain _⟩
  simp only [beq_iff_eq, beq_eq_false_iff_ne]
  rintro r rfl
  exact ho.symm

theorem State.placesLaw_of_eq {s t : State} (h : s.placesLaw)
    (hr : t.agent.replies.filterMap Place.reservation = s.agent.replies.filterMap Place.reservation)
    (ha : t.agent.replies.any Place.restarts = s.agent.replies.any Place.restarts)
    (hw : t.agent.restartWaiting = s.agent.restartWaiting) (hc : t.tables.commit = s.tables.commit)
    (hs : t.store.state = s.store.state) : t.placesLaw := by
  unfold State.placesLaw Agent.reservedFor
  rw [hr, ha, hw, hc, hs]
  exact h

theorem takeFilled_reservations {places left : List Place} {r : Reply} (h : takeFilled places = some (r, left))
    (plain : r.restartsFull = false) :
    left.filterMap Place.reservation = places.filterMap Place.reservation ∧
      left.any Place.restarts = places.any Place.restarts := by
  obtain ⟨ahead, behind, -, rfl, rfl⟩ := takeFilled_split places r left h
  simp [Place.restarts, plain]

theorem State.placesLaw_addsPlace {s t : State} (hs : s.placesLaw) (h : s.AddsPlace t) : t.placesLaw := by
  obtain ⟨hcommit, hsave, hcodes, hrestart⟩ := hs
  obtain ⟨-, place, hr, hp⟩ := h
  cases hp with
  | reply r plain restart commit store =>
    refine State.placesLaw_of_eq ⟨hcommit, hsave, hcodes, hrestart⟩ ?_ ?_ restart commit store <;>
      simp [hr, Place.reservation, Place.restarts, plain]
  | commit tag restart free begun store =>
    refine ⟨?_, ?_, ?_, ?_⟩
    · rw [free] at hcommit
      simpa [Agent.reservedFor, hr, begun, Place.reservation] using hcommit
    · rw [store, ← hsave]
      simp [Agent.reservedFor, hr, Place.reservation, commitCode_ne_saveCode]
    · rw [hr, List.filterMap_append]
      simpa [Place.reservation, or_imp, forall_and] using hcodes
    · rw [restart, hrestart, hr]
      simp [Place.restarts]
  | save tag slot image restart commit idle begun =>
    refine ⟨?_, ?_, ?_, ?_⟩
    · rw [commit, ← hcommit]
      simp [Agent.reservedFor, hr, Place.reservation, commitCode_ne_saveCode.symm]
    · rw [idle] at hsave
      rw [begun]
      simpa [Agent.reservedFor, hr, Place.reservation] using hsave
    · rw [hr, List.filterMap_append]
      simpa [Place.reservation, or_imp, forall_and] using hcodes
    · rw [restart, hrestart, hr]
      simp [Place.restarts]
  | restart r full waiting commit store =>
    have same : t.agent.replies.filterMap Place.reservation = s.agent.replies.filterMap Place.reservation := by
      simp [hr, Place.reservation]
    refine ⟨?_, ?_, ?_, ?_⟩
    · rw [commit, ← hcommit, Agent.reservedFor, same, Agent.reservedFor]
    · rw [store, ← hsave, Agent.reservedFor, same, Agent.reservedFor]
    · rw [same]
      exact hcodes
    · rw [waiting, hr]
      simp [Place.restarts, full]

theorem placesLaw_queueLaw : QueueLaw State.placesLaw where
  same hs h := State.placesLaw_of_eq hs (by rw [h.replies]) (by rw [h.replies]) h.restart h.commit h.store
  received _ hs _ := hs
  executed {s _ _ rest} hs _ _ h :=
    State.placesLaw_addsPlace (s := { s with agent := { s.agent with commands := rest } }) hs h
  notified hs _ := State.placesLaw_of_eq hs (by simp [State.formNotification, Place.reservation])
    (by simp [State.formNotification, Place.restarts, State.notification]) rfl rfl rfl
  committed := by
    rintro s t tag ⟨hcommit, hsave, hcodes, hrestart⟩ hc hf hn hstore
    obtain ⟨h1, h2, h3, h4⟩ := hf.reservedFor
    rw [hc] at hcommit
    refine ⟨by rw [h1, hcommit, hn]; rfl, by rw [h2 _ commitCode_ne_saveCode.symm, hsave, hstore],
      fun r hr => hcodes r (h3 r hr), by rw [hf.restart, hrestart, h4]⟩
  written := by
    rintro s t slot image ⟨hcommit, hsave, hcodes, hrestart⟩ hw hf hc hidle
    obtain ⟨h1, h2, h3, h4⟩ := hf.reservedFor
    rw [hw] at hsave
    refine ⟨by rw [h2 _ commitCode_ne_saveCode, hcommit, hc], by rw [h1, List.length_tail, hsave, hidle]; rfl,
      fun r hr => hcodes r (h3 r hr), by rw [hf.restart, hrestart, h4]⟩
  taken hs h plain :=
    State.placesLaw_of_eq hs (takeFilled_reservations h plain).1 (takeFilled_reservations h plain).2 rfl rfl rfl
  emptied _ hr hw hc hs := by simp [State.placesLaw, Agent.reservedFor, hr, hw, hc, hs]

/-- At the load instant the quiet part has empty queues, no commit and an idle store. -/
theorem State.Quiet.placesLaw_loaded {s : State} (h : s.Quiet) : s.loadInstant.placesLaw := by
  have hl : s.loadedTables.placesLaw := placesLaw_queueLaw.emptied h.commands h.replies h.restart rfl h.store
  exact placesLaw_queueLaw.onlyMerge hl (State.onlyMerge_of_onlyAlarms (State.loadInstant_onlyAlarms s))

/-- Settles O52: each law is kept by every way in which a step can change the queues (`QueueLaw`). -/
theorem agentQueuesStayLawful : Obligations.AgentQueuesStayLawful := by
  refine ⟨step_leads (fun _ _ => id) (fun s d hs => State.queuesBounded_of_eq hs (by simp) (by simp))
    fun s t hs he => queuesBounded_queueLaw.keeps (fun _ => ?_) hs he, fun s t hq hp => step_leads
      (P := fun u => u.quietUntilLoaded ∧ u.placesLaw) (fun _ _ => id) ?_ ?_ s t ⟨hq, hp⟩⟩
  · exact State.queuesBounded_onlyMerge (State.queuesBounded_of_eq (t := s.loadedTables) hs rfl rfl)
      (State.onlyMerge_of_onlyAlarms (State.loadInstant_onlyAlarms s))
  · rintro u d ⟨hq, hp⟩
    exact ⟨State.quietUntilLoaded_advance hq d, placesLaw_queueLaw.same hp (by constructor <;> simp)⟩
  · rintro u v ⟨hq, hp⟩ he
    exact placesLaw_queueLaw.keeps
      (fun hs => ((u.quietUntilLoaded_iff.mp hq) (by rw [hs]; simp)).placesLaw_loaded) hp he

end Sys2Proof.Machine
end

section
/-! PROOFS. The condition copies and the latches (R64, R65, R78, R125, R179, R180): every change of a condition is reported
by its owner before the step ends, and a report latches what it records. -/

namespace Sys2Proof.Machine

open Sys2Proof

/-! ## The law while some conditions are still to be reported -/

/-- Every recorded condition is latched, and the copies are true of the kinds that `unreported` does not name. -/
def State.alarmsBut (unreported : AlarmKind → Prop) (s : State) : Prop :=
  ∀ k : AlarmKind, (hasKind s.alarms.holding k = true → hasKind s.alarms.latched k = true) ∧
    (¬ unreported k → (hasKind s.alarms.holding k = true ↔ s.condition k))

/-- The two conditions that follow from the flow contexts (R64, R65). -/
def AlarmKind.ofFlows (k : AlarmKind) : Prop := k = .flowUnprotected ∨ k = .flowSilent

theorem State.alarmsLaw_iff (s : State) : s.alarmsLaw ↔ s.alarmsBut (fun _ => False) :=
  forall_congr' fun _ => ⟨fun ⟨h1, h2⟩ => ⟨h2, fun _ => h1⟩, fun ⟨h2, h1⟩ => ⟨h1 not_false, h2⟩⟩

theorem State.alarmsBut_mono {skip skip' : AlarmKind → Prop} {s : State} (h : s.alarmsBut skip)
    (hs : ∀ k, skip k → skip' k) : s.alarmsBut skip' :=
  fun k => ⟨(h k).1, fun hk => (h k).2 (fun e => hk (hs k e))⟩

theorem State.alarmsLaw.mid {s : State} (h : s.alarmsLaw) : s.alarmsBut AlarmKind.ofFlows :=
  State.alarmsBut_mono (s.alarmsLaw_iff.mp h) (fun _ => False.elim)

/-- A condition that is not the flows' is read from the receivers and the free count alone. -/
theorem State.condition_congr {s t : State} {k : AlarmKind} (hk : ¬ k.ofFlows)
    (hA : k = .linkADown → t.rxA.state = s.rxA.state) (hB : k = .linkBDown → t.rxB.state = s.rxB.state)
    (hp : k = .poolEmpty → t.pool.free = s.pool.free) : t.condition k ↔ s.condition k := by
  cases k with
  | linkADown => simp only [State.condition, hA]
  | linkBDown => simp only [State.condition, hB]
  | poolEmpty => simp only [State.condition, hp]
  | flowUnprotected => exact absurd (.inl rfl) hk
  | flowSilent => exact absurd (.inr rfl) hk
  | mismatch | skew | loss | resync | mgmtOverrun | storeFailed | storeEmpty => exact Iff.rfl

/-- The flows' conditions follow from what each flow shows. -/
theorem State.condition_congr_flows {s t : State} (hA : t.rxA.state = s.rxA.state)
    (hB : t.rxB.state = s.rxB.state) (hp : t.pool.free = s.pool.free)
    (hu : ∀ n, (t.flow n).unprotected (t.entry n) = (s.flow n).unprotected (s.entry n))
    (hs : ∀ n, (t.flow n).silent = (s.flow n).silent) (k : AlarmKind) : t.condition k ↔ s.condition k := by
  by_cases hk : k.ofFlows
  · obtain rfl | rfl := hk
    · simp only [State.condition, hu]
    · simp only [State.condition, hs]
  · exact State.condition_congr hk (fun _ => hA) (fun _ => hB) (fun _ => hp)

theorem State.alarmsBut_of_eq {skip : AlarmKind → Prop} {s t : State} (h : s.alarmsBut skip) (ha : t.alarms = s.alarms)
    (hc : ∀ k, ¬ skip k → (t.condition k ↔ s.condition k)) : t.alarmsBut skip := by
  intro k
  rw [ha]
  exact ⟨(h k).1, fun hk => ((h k).2 hk).trans (hc k hk).symm⟩

/-- Mid-step, only alarms, receivers and free count matter. -/
theorem State.alarmsMid_of_eq {s t : State} (h : s.alarmsBut AlarmKind.ofFlows) (ha : t.alarms = s.alarms)
    (hA : t.rxA.state = s.rxA.state) (hB : t.rxB.state = s.rxB.state) (hp : t.pool.free = s.pool.free) :
    t.alarmsBut AlarmKind.ofFlows :=
  State.alarmsBut_of_eq h ha fun _ hk => State.condition_congr hk (fun _ => hA) (fun _ => hB) (fun _ => hp)

theorem State.alarmsLaw_of_flows {s t : State} (h : s.alarmsLaw) (ha : t.alarms = s.alarms)
    (hA : t.rxA.state = s.rxA.state) (hB : t.rxB.state = s.rxB.state) (hp : t.pool.free = s.pool.free)
    (hu : ∀ n, (t.flow n).unprotected (t.entry n) = (s.flow n).unprotected (s.entry n))
    (hs : ∀ n, (t.flow n).silent = (s.flow n).silent) : t.alarmsLaw := by
  rw [State.alarmsLaw_iff] at h ⊢
  exact State.alarmsBut_of_eq h ha fun k _ => State.condition_congr_flows hA hB hp hu hs k

theorem State.alarmsLaw_of_eq {s t : State} (h : s.alarmsLaw) (ha : t.alarms = s.alarms)
    (hA : t.rxA.state = s.rxA.state) (hB : t.rxB.state = s.rxB.state) (hp : t.pool.free = s.pool.free)
    (hf : t.flows = s.flows) (ht : t.tables.active = s.tables.active) : t.alarmsLaw := by
  have flow : ∀ n, t.flow n = s.flow n := State.flow_of_flows hf
  have entry : ∀ n, t.entry n = s.entry n := fun n => congrArg (Bank.entry · n) ht
  exact State.alarmsLaw_of_flows h ha hA hB hp (fun n => by rw [flow, entry]) (fun n => by rw [flow])

/-! ## Latches and reports -/

theorem State.alarmsBut_latch {skip : AlarmKind → Prop} {s : State} (j : AlarmKind) (h : s.alarmsBut skip) :
    (s.latch j).alarmsBut skip := by
  have hc : ∀ k, (s.latch j).condition k ↔ s.condition k := fun k => State.condition_congr_flows (by simp) (by simp)
    (by simp) (fun n => by simp [State.flow, State.entry]) (fun n => by simp [State.flow]) k
  intro k
  rw [State.latch_holding, State.latch_latched]
  exact ⟨fun hk => by rw [(h k).1 hk]; rfl, fun hk => ((h k).2 hk).trans (hc k).symm⟩

theorem State.alarmsBut_latchAll {skip : AlarmKind → Prop} (ks : List AlarmKind) :
    ∀ {s : State}, s.alarmsBut skip → (s.latchAll ks).alarmsBut skip := by
  induction ks with
  | nil => exact id
  | cons k ks ih => exact fun h => ih (State.alarmsBut_latch k h)

theorem State.alarmsLaw_latch {s : State} (j : AlarmKind) (h : s.alarmsLaw) : (s.latch j).alarmsLaw := by
  rw [State.alarmsLaw_iff] at h ⊢
  exact State.alarmsBut_latch j h

/-- A true report of a kind takes it out of what is still to be reported (R180). -/
theorem State.alarmsBut_report {skip : AlarmKind → Prop} {s : State} {j : AlarmKind} {b : Bool}
    (h : s.alarmsBut (fun k => skip k ∨ k = j)) (hb : b = true ↔ s.condition j) : (s.report j b).alarmsBut skip := by
  have hc : ∀ k, (s.report j b).condition k ↔ s.condition k := fun k => State.condition_congr_flows (by simp)
    (by simp) (by simp) (fun n => by simp [State.flow, State.entry]) (fun n => by simp [State.flow]) k
  intro k
  rw [State.report_holding, State.report_latched, hc k]
  by_cases hk : k = j
  · subst hk
    refine ⟨fun hh => ?_, fun _ => by simpa using hb⟩
    rw [if_pos rfl] at hh
    cases hold : hasKind s.alarms.holding k
    · simp [hh]
    · simp [(h k).1 hold]
  · simp only [hk, if_false, decide_false, Bool.and_false, Bool.or_false]
    exact ⟨(h k).1, fun hs => (h k).2 (by simp [hs, hk])⟩

/-- The two flow reports close what a change of flows left open (R64, R65). -/
theorem State.alarmsLaw_reportFlows {s : State} (h : s.alarmsBut AlarmKind.ofFlows) : s.reportFlows.alarmsLaw := by
  have any_iff : ∀ f : Index → Bool, (List.finRange 128).any f = true ↔ ∃ n, f n = true := fun f => by simp
  rw [State.alarmsLaw_iff]
  unfold State.reportFlows
  refine State.alarmsBut_report (State.alarmsBut_mono (State.alarmsBut_report (skip := (· = .flowSilent)) ?_ ?_) ?_) ?_
  · exact State.alarmsBut_mono h fun k hk => hk.symm
  · exact any_iff _
  · exact fun k hk => .inr hk
  · rw [any_iff]
    simp only [State.condition, State.flow, State.report_keeps]

/-- A change of the free count that is reported (R78). -/
theorem State.alarmsMid_reportPool {s : State} (pool : Pool) (h : s.alarmsBut AlarmKind.ofFlows) :
    (State.report .poolEmpty (pool.free == 0) { s with pool := pool }).alarmsBut AlarmKind.ofFlows := by
  refine State.alarmsBut_report (State.alarmsBut_of_eq (State.alarmsBut_mono h fun _ => .inl) rfl ?_) ?_
  · intro k hk
    obtain ⟨hk, hp⟩ := not_or.mp hk
    exact State.condition_congr hk (fun _ => rfl) (fun _ => rfl) fun e => absurd e hp
  · exact beq_iff_eq

theorem State.alarmsMid_freeBuffers (n : Nat) {s : State} (h : s.alarmsBut AlarmKind.ofFlows) :
    (s.freeBuffers n).alarmsBut AlarmKind.ofFlows := by
  unfold State.freeBuffers
  split
  · exact h
  · next hn =>
    have hf : ({ s.pool with free := s.pool.free + n } : Pool).free ≠ 0 := by simp [hn]
    have hp := State.alarmsMid_reportPool { s.pool with free := s.pool.free + n } h
    rwa [beq_eq_false_iff_ne.mpr hf] at hp

theorem State.alarmsMid_allocBuffer {s : State} (h : s.alarmsBut AlarmKind.ofFlows) :
    s.allocBuffer.alarmsBut AlarmKind.ofFlows :=
  State.alarmsMid_reportPool { free := s.pool.free - 1, lowWater := min s.pool.lowWater (s.pool.free - 1) } h

/-- A receiver written, and its link condition reported as it now stands (R125). -/
theorem State.alarmsMid_reportLink {s u : State} {p : Path} {b : Bool} (h : s.alarmsBut AlarmKind.ofFlows)
    (ha : u.alarms = s.alarms) (hp : u.pool.free = s.pool.free) (hne : ∀ q, q ≠ p → u.rx q = s.rx q)
    (hb : b = true ↔ (u.rx p).state ≠ .up) : (u.report (linkKind p) b).alarmsBut AlarmKind.ofFlows := by
  refine State.alarmsBut_report (State.alarmsBut_of_eq (State.alarmsBut_mono h fun _ => .inl) ha ?_) ?_
  · intro k hk
    obtain ⟨hk, hl⟩ := not_or.mp hk
    refine State.condition_congr hk (fun e => ?_) (fun e => ?_) (fun _ => hp)
    · exact congrArg Receiver.state (hne .a fun ea => hl (by rw [← ea]; exact e))
    · exact congrArg Receiver.state (hne .b fun eb => hl (by rw [← eb]; exact e))
  · cases p <;> exact hb

/-! ## The operations on flows, closed by a report -/

theorem State.alarmsMid_setFlow {s : State} (n : Index) (c : Ctx) (h : s.alarmsBut AlarmKind.ofFlows) :
    (s.setFlow n c).alarmsBut AlarmKind.ofFlows := State.alarmsMid_of_eq h rfl rfl rfl rfl

theorem State.alarmsMid_putFlow {s : State} (n : Index) (c : Ctx) (h : s.alarmsBut AlarmKind.ofFlows) :
    (s.putFlow n c).alarmsBut AlarmKind.ofFlows :=
  State.alarmsMid_of_eq h (by simp) (by simp) (by simp) (by simp)

theorem State.alarmsMid_settleFlow {s : State} (n : Index) (c : Ctx) (h : s.alarmsBut AlarmKind.ofFlows) :
    (s.settleFlow n c).alarmsBut AlarmKind.ofFlows := by
  rw [State.settleFlow_eq]
  split
  · exact State.alarmsBut_latch _ (State.alarmsMid_putFlow n _ h)
  · exact State.alarmsMid_putFlow n _ h

theorem State.alarmsMid_moveRing {s : State} (n : Index) (old new : Fin 8) (h : s.alarmsBut AlarmKind.ofFlows) :
    (s.moveRing n old new).alarmsBut AlarmKind.ofFlows := by
  unfold State.moveRing
  split
  · exact h
  · exact State.alarmsMid_of_eq h (by simp) (by simp) (by simp) (by simp)

theorem State.alarmsMid_commitTurnsValid {s : State} (new : Entry) (n : Index) (h : s.alarmsBut AlarmKind.ofFlows) :
    (s.commitTurnsValid new n).alarmsBut AlarmKind.ofFlows :=
  State.alarmsMid_moveRing n _ _ (State.alarmsMid_setFlow n _ h)

theorem State.alarmsMid_commitReleaseFlow {s : State} (old : Entry) (n : Index) (h : s.alarmsBut AlarmKind.ofFlows) :
    (s.commitReleaseFlow old n).alarmsBut AlarmKind.ofFlows := by
  unfold State.commitReleaseFlow
  dsimp only
  split
  · exact State.alarmsBut_latch _ (State.alarmsMid_putFlow n _ h)
  · exact State.alarmsMid_putFlow n _ h

theorem State.alarmsMid_commitFields {s : State} (old new : Entry) (n : Index) (h : s.alarmsBut AlarmKind.ofFlows) :
    (s.commitFields old new n).alarmsBut AlarmKind.ofFlows := by
  have hw : (s.commitWindow old new n).alarmsBut AlarmKind.ofFlows := by
    unfold State.commitWindow
    split
    · exact State.alarmsMid_freeBuffers _ (State.alarmsMid_setFlow n _ h)
    · exact h
  have hp : ((s.commitWindow old new n).commitPolicy old new n).alarmsBut AlarmKind.ofFlows := by
    unfold State.commitPolicy
    split
    · exact hw
    · exact State.alarmsMid_setFlow n _ hw
  unfold State.commitFields State.commitClass
  split
  · exact hp
  · exact State.alarmsMid_moveRing n _ _ (State.alarmsMid_setFlow n _ hp)

theorem State.alarmsMid_commitIndex (oldBank : Bank) (n : Index) {s : State} (h : s.alarmsBut AlarmKind.ofFlows) :
    (s.commitIndex oldBank n).alarmsBut AlarmKind.ofFlows := by
  obtain ⟨-, -, e⟩ | ⟨-, -, e⟩ | ⟨-, -, e⟩ | ⟨-, -, -, e⟩ | ⟨-, -, -, e⟩ := State.commitIndex_cases oldBank n s <;> rw [e]
  · exact h
  · exact State.alarmsMid_commitTurnsValid _ n h
  · exact State.alarmsMid_setFlow n _ (State.alarmsMid_commitReleaseFlow _ n h)
  · rw [State.commitSameLabel_eq]
    split
    · exact h
    · exact State.alarmsMid_settleFlow n _ (State.alarmsMid_commitFields _ _ n h)
  · exact State.alarmsMid_commitTurnsValid _ n (State.alarmsMid_commitReleaseFlow _ n h)

theorem State.alarmsLaw_changeFlow {s : State} (n : Index) (f : Ctx → Ctx) (h : s.alarmsBut AlarmKind.ofFlows) :
    (s.changeFlow n f).alarmsLaw :=
  State.alarmsLaw_reportFlows (State.alarmsMid_settleFlow n _ h)

theorem State.alarmsLaw_pathAbsent {s : State} (p : Path) (h : s.alarmsBut AlarmKind.ofFlows) : (s.pathAbsent p).alarmsLaw :=
  State.alarmsLaw_reportFlows (State.forFlows_induct (P := State.alarmsBut AlarmKind.ofFlows)
    (fun n _ ht => State.alarmsMid_settleFlow n _ ht) _ (State.alarmsMid_of_eq h rfl rfl rfl rfl))

theorem State.alarmsLaw_writeSettings {s : State} (u : Settings) (h : s.alarmsLaw) : (s.writeSettings u).alarmsLaw := by
  obtain ⟨-, e⟩ | ⟨-, e⟩ := State.writeSettings_cases u s <;> rw [e]
  · exact State.alarmsLaw_of_eq h rfl rfl rfl rfl rfl rfl
  · exact State.alarmsLaw_reportFlows (State.forFlows_induct (P := State.alarmsBut AlarmKind.ofFlows)
      (fun n _ ht => State.alarmsMid_settleFlow n _ ht) _ (State.alarmsMid_of_eq h.mid rfl rfl rfl rfl))

theorem State.alarmsLaw_flushFlow {s : State} (n : Index) (h : s.alarmsLaw) : (s.flushFlow n).alarmsLaw :=
  State.alarmsLaw_reportFlows (State.alarmsMid_freeBuffers _ (State.alarmsMid_setFlow n _ h.mid))

theorem State.alarmsMid_moveBuffers {s : State} (j : Judged) (h : s.alarmsBut AlarmKind.ofFlows) :
    (s.moveBuffers j).alarmsBut AlarmKind.ofFlows := by
  unfold State.moveBuffers
  split
  · exact State.alarmsMid_allocBuffer (State.alarmsMid_freeBuffers _ h)
  · exact State.alarmsMid_freeBuffers _ h

theorem State.alarmsLaw_arriveFlow {s : State} (n : Index) (b : Buffer) (h : s.alarmsLaw) : (s.arriveFlow n b).alarmsLaw :=
  State.alarmsLaw_reportFlows (State.alarmsMid_settleFlow n _ (State.alarmsBut_latchAll _
    (State.alarmsMid_moveBuffers _ h.mid)))

theorem State.alarmsLaw_commitContexts {s : State} (h : s.alarmsBut AlarmKind.ofFlows) : s.commitContexts.alarmsLaw := by
  have ht : s.commitTables.alarmsBut AlarmKind.ofFlows := State.alarmsMid_of_eq h rfl rfl rfl rfl
  exact State.alarmsLaw_reportFlows (State.forFlows_induct (P := State.alarmsBut AlarmKind.ofFlows)
    (fun n _ hu => State.alarmsMid_commitIndex _ n hu) _ ht)

theorem State.alarmsLaw_roundBoundary {s : State} (h : s.alarmsLaw) : s.roundBoundary.alarmsLaw := by
  obtain ⟨-, e⟩ | ⟨tag, -, e⟩ := State.roundBoundary_cases s <;> rw [e]
  · exact State.alarmsLaw_of_eq h rfl rfl rfl rfl rfl rfl
  · have hc := State.alarmsLaw_commitContexts (s := s.rewound) (State.alarmsMid_of_eq h.mid rfl rfl rfl rfl)
    exact State.alarmsLaw_of_eq hc (by simp) (by simp) (by simp) (by simp) (by simp) (by simp)

/-! ## Context M and the agent -/

/-- Nothing of the flows changes: the flows' conditions stand with the others. -/
theorem State.alarmsLaw_of_mid {s t : State} (h : s.alarmsLaw) (hm : t.alarmsBut AlarmKind.ofFlows)
    (hh : ∀ k : AlarmKind, k.ofFlows → hasKind t.alarms.holding k = hasKind s.alarms.holding k)
    (hf : t.flows = s.flows) (ht : t.tables.active = s.tables.active) : t.alarmsLaw := by
  have flow : ∀ n, t.flow n = s.flow n := State.flow_of_flows hf
  have entry : ∀ n, t.entry n = s.entry n := fun n => congrArg (Bank.entry · n) ht
  intro k
  refine ⟨?_, (hm k).1⟩
  by_cases hk : k.ofFlows
  · rw [hh k hk, (h k).1]
    obtain rfl | rfl := hk <;> simp only [State.condition, flow, entry]
  · exact (hm k).2 hk

theorem State.alarmsLaw_freeBuffers {s : State} (n : Nat) (h : s.alarmsLaw) : (s.freeBuffers n).alarmsLaw := by
  refine State.alarmsLaw_of_mid h (State.alarmsMid_freeBuffers n h.mid) (fun k hk => ?_) (by simp) (by simp)
  unfold State.freeBuffers
  split
  · rfl
  · rw [State.report_holding, if_neg (by rintro rfl; simp [AlarmKind.ofFlows] at hk)]

theorem State.alarmsLaw_allocBuffer {s : State} (h : s.alarmsLaw) : s.allocBuffer.alarmsLaw := by
  refine State.alarmsLaw_of_mid h (State.alarmsMid_allocBuffer h.mid) (fun k hk => ?_) (by simp) (by simp)
  unfold State.allocBuffer
  rw [State.report_holding, if_neg (by rintro rfl; simp [AlarmKind.ofFlows] at hk)]

theorem State.alarmsLaw_deliver {s : State} (flags : Byte) (c : Command) (h : s.alarmsLaw) :
    (s.deliver flags c).alarmsLaw := by
  unfold State.deliver
  split
  · unfold State.receiveCommand
    split
    · exact State.alarmsLaw_of_eq h rfl rfl rfl rfl rfl rfl
    · exact State.alarmsLaw_latch _ (State.alarmsLaw_of_eq h rfl rfl rfl rfl rfl rfl)
  · exact State.alarmsLaw_of_eq h rfl rfl rfl rfl rfl rfl

theorem State.alarmsLaw_handOverCell {s : State} (b : Buffer) (h : s.alarmsLaw) : (s.handOverCell b).alarmsLaw := by
  unfold State.handOverCell State.handOver
  split
  · exact State.alarmsLaw_deliver _ _ (State.alarmsLaw_freeBuffers 1 h)
  · exact State.alarmsLaw_deliver _ _ h

theorem State.alarmsLaw_trafficRestart {s : State} (h : s.alarmsLaw) : s.trafficRestart.alarmsLaw := by
  rw [State.trafficRestart_eq]
  refine State.alarmsLaw_reportFlows (State.alarmsBut_report (State.alarmsBut_of_eq (s := s)
    (State.alarmsBut_mono h.mid fun _ => .inl) rfl ?_) ?_)
  · intro k hk
    obtain ⟨hk, hp⟩ := not_or.mp hk
    exact State.condition_congr hk (fun _ => rfl) (fun _ => rfl) fun e => absurd e hp
  · simp [State.condition, State.restartedTraffic, Config.poolSize]

/-- Clearing counters shows in no condition (R166). -/
theorem Ctx.clearGroup_conditions (group : Byte) (e : Entry) (c : Ctx) :
    (c.clearGroup group).unprotected e = c.unprotected e ∧ (c.clearGroup group).silent = c.silent := by
  unfold Ctx.clearGroup
  split
  · exact ⟨rfl, rfl⟩
  · split <;> exact ⟨rfl, rfl⟩

/-- A context written back that shows the same conditions changes none. -/
theorem State.alarmsLaw_setFlow {s : State} {n : Index} {c : Ctx} (h : s.alarmsLaw)
    (hu : c.unprotected (s.entry n) = (s.flow n).unprotected (s.entry n)) (hs : c.silent = (s.flow n).silent) :
    (s.setFlow n c).alarmsLaw := by
  have hf : ∀ k, (s.setFlow n c).flow k = s.flow k ∨ k = n ∧ (s.setFlow n c).flow k = c := fun k => by
    by_cases hk : k = n
    · subst hk
      by_cases hl : k.val < s.flows.length
      · exact .inr ⟨rfl, by simp [State.flow, List.getD_eq_getElem?_getD, hl]⟩
      · exact .inl (by simp [State.flow, List.getD_eq_getElem?_getD, hl])
    · exact .inl (State.flow_setFlow_ne hk c s)
  refine State.alarmsLaw_of_flows h rfl rfl rfl rfl (fun k => ?_) (fun k => ?_)
  · obtain e | ⟨rfl, e⟩ := hf k <;> rw [e]
    · rfl
    · exact hu
  · obtain e | ⟨rfl, e⟩ := hf k <;> rw [e]
    exact hs

theorem State.alarmsLaw_answer {s : State} (c : Command) (st : Status) (result : List Byte) (h : s.alarmsLaw) :
    (s.answer c st result).alarmsLaw := State.alarmsLaw_of_eq h rfl rfl rfl rfl rfl rfl

theorem Executed.keeps_alarmsLaw {c : Command} {s t : State} (h : s.alarmsLaw) (he : Executed c s t) : t.alarmsLaw := by
  cases he with
  | answered | lowWater | deviceCleared | pendingWritten | committed | straysCleared | saved | loadEmpty | restartQueued =>
    exact State.alarmsLaw_of_eq h rfl rfl rfl rfl rfl rfl
  | cleared i group =>
    refine State.alarmsLaw_answer c _ _ ?_
    cases i with
    | flow n =>
      exact State.alarmsLaw_setFlow h (Ctx.clearGroup_conditions group _ _).1 (Ctx.clearGroup_conditions group (s.entry n) _).2
    | m => exact State.alarmsLaw_of_eq h rfl rfl rfl rfl rfl rfl
  | alarmsCleared named =>
    refine State.alarmsLaw_answer c _ _ fun k => ⟨(h k).1, fun hk => ?_⟩
    simp only [clearedLatches, hasKind_and, hasKind_not]
    simp [(h k).2 hk, show hasKind s.alarms.holding k = true from hk]
  | settingsWritten u => exact State.alarmsLaw_answer c _ _ (State.alarmsLaw_writeSettings u h)
  | imageLoaded slot image =>
    exact State.alarmsLaw_answer c _ _ (State.alarmsLaw_writeSettings _ (State.alarmsLaw_of_eq h rfl rfl rfl rfl rfl rfl))
  | flushed n => exact State.alarmsLaw_answer c _ _ (State.alarmsLaw_flushFlow n h)
  | restarted => exact State.alarmsLaw_answer c _ _ (State.alarmsLaw_trafficRestart h)

theorem State.alarmsLaw_settleM {s : State} (h : s.alarmsLaw) : s.settleM.2.alarmsLaw := by
  unfold State.settleM
  dsimp only
  split
  · exact State.alarmsLaw_latch _ (State.alarmsLaw_of_eq h rfl rfl rfl rfl rfl rfl)
  · exact State.alarmsLaw_of_eq h rfl rfl rfl rfl rfl rfl

theorem State.alarmsLaw_settleAgent {s : State} (h : s.alarmsLaw) : s.settleAgent.alarmsLaw :=
  State.settle_keeps (P := State.alarmsLaw) (fun _ hu => State.alarmsLaw_settleM hu)
    (fun _ rest u _ hu _ _ he => Executed.keeps_alarmsLaw
      (s := { u with agent := { u.agent with commands := rest } }) (State.alarmsLaw_of_eq hu rfl rfl rfl rfl rfl rfl) he)
    (fun b _ hu => State.alarmsLaw_handOverCell b hu) _ _ s h

theorem State.alarmsLaw_moveBuffers {s : State} (j : Judged) (h : s.alarmsLaw) : (s.moveBuffers j).alarmsLaw := by
  unfold State.moveBuffers
  split
  · exact State.alarmsLaw_allocBuffer (State.alarmsLaw_freeBuffers _ h)
  · exact State.alarmsLaw_freeBuffers _ h

theorem State.alarmsLaw_latchAll {s : State} (ks : List AlarmKind) (h : s.alarmsLaw) : (s.latchAll ks).alarmsLaw := by
  rw [State.alarmsLaw_iff] at h ⊢
  exact State.alarmsBut_latchAll ks h

theorem State.alarmsLaw_takeDelivered {s : State} (b : Option Buffer) (h : s.alarmsLaw) :
    (State.takeDelivered b s).alarmsLaw := by
  cases b with
  | none => exact h
  | some b =>
    rw [State.takeDelivered_some]
    obtain ⟨-, e⟩ | ⟨-, -, e⟩ | ⟨n, -, -, -, e⟩ | ⟨n, -, -, -, e⟩ := State.classify_cases b s <;> rw [e]
    · have hl := State.alarmsLaw_latchAll (s.m.judge s.mParams s.tables.settings.skewTicks s.pool.free b).events
        (State.alarmsLaw_moveBuffers (s.m.judge s.mParams s.tables.settings.skewTicks s.pool.free b) h)
      exact State.alarmsLaw_settleAgent (State.alarmsLaw_of_eq hl rfl rfl rfl rfl rfl rfl)
    · exact State.alarmsLaw_of_eq h (by simp) (by simp) (by simp) (by simp) (by simp) (by simp)
    · exact State.alarmsLaw_arriveFlow n b h
    · exact State.alarmsLaw_of_eq h (by simp) (by simp) (by simp) (by simp) (by simp) (by simp)

/-! ## Receivers -/

/-- A receiver written that is in UP as before changes no condition. -/
theorem State.alarmsLaw_setRx {s : State} {p : Path} {r : Receiver} (h : s.alarmsLaw)
    (hr : r.state = .up ↔ (s.rx p).state = .up) : (s.setRx p r).alarmsLaw := by
  intro k
  have hk := h k
  have hc : (s.setRx p r).condition k ↔ s.condition k := by
    cases p <;> cases k <;>
      simp only [State.condition, State.setRx, State.rx, State.flow, State.entry, ne_eq] at hr ⊢ <;> rw [hr]
  have halarms : (s.setRx p r).alarms = s.alarms := by simp
  rw [hc, halarms]
  exact hk

theorem State.alarmsLaw_countPath {s : State} (p : Path) (f : PathCounters → PathCounters) (h : s.alarmsLaw) :
    (s.countPath p f).alarmsLaw :=
  State.alarmsLaw_of_eq h (by simp) (by simp) (by simp) (by simp) (by simp) (by simp)

theorem State.alarmsLaw_judgeHeader {s : State} (p : Path) (header : BitVec 48) (h : s.alarmsLaw) :
    (s.judgeHeader p header).alarmsLaw := by
  obtain ⟨-, e⟩ | ⟨-, ⟨f, e⟩ | ⟨hd, f, e⟩⟩ := State.judgeHeader_cases p header s <;> rw [e]
  · exact h
  · exact State.alarmsLaw_countPath p f h
  · refine State.alarmsLaw_setRx (State.alarmsLaw_countPath p f h) ?_
    have hx : (s.countPath p f).rx p = s.rx p := State.rx_of_rxA_rxB (by simp) (by simp) p
    rw [hx]

/-- UP is left: the link condition is reported and every flow's conditions follow (R125, R126). -/
theorem State.alarmsLaw_leftUp {s u : State} {p : Path} (h : s.alarmsBut AlarmKind.ofFlows)
    (ha : u.alarms = s.alarms) (hp : u.pool.free = s.pool.free) (hne : ∀ q, q ≠ p → u.rx q = s.rx q)
    (hout : (u.rx p).state ≠ .up) : (u.leftUp p).alarmsLaw :=
  State.alarmsLaw_pathAbsent p (State.alarmsMid_reportLink h ha hp hne (by simpa using hout))

theorem State.alarmsLaw_headerInCheck {s : State} {p : Path} (header : BitVec 48) (h : s.alarmsLaw)
    (check : (s.rx p).state = .check) : (s.headerInCheck p header).alarmsLaw := by
  obtain ⟨r, e, hr, -⟩ | ⟨r, f, e, hr, -⟩ := State.headerInCheck_cases header check <;> rw [e]
  · exact State.alarmsLaw_setRx h (by simp [hr, check])
  · refine State.alarmsLaw_judgeHeader p header (State.alarmsLaw_of_mid h (State.alarmsMid_reportLink h.mid
      (by simp) (by simp) (fun q hq => ?_) ?_) (fun k hk => ?_) (by simp) (by simp))
    · rw [State.rx_of_rxA_rxB (s := s.setRx p r) (by simp) (by simp), State.rx_setRx, if_neg hq]
    · rw [State.rx_of_rxA_rxB (s := s.setRx p r) (by simp) (by simp), State.setRx_rx]
      simp [hr]
    · rw [State.report_holding, if_neg (by rintro rfl; cases p <;> simp [AlarmKind.ofFlows, linkKind] at hk)]
      simp

theorem State.alarmsLaw_headerInUp {s : State} {p : Path} (header : BitVec 48) (h : s.alarmsLaw) :
    (s.headerInUp p header).alarmsLaw := by
  have judged : ∀ r : Receiver, r.state = (s.rx p).state → ((s.setRx p r).judgeHeader p header).alarmsLaw := fun r hr =>
    State.alarmsLaw_judgeHeader p header (State.alarmsLaw_setRx h (by rw [hr]))
  obtain ⟨r, e, hr, -⟩ | ⟨r, r', e, hr, hr', -⟩ := State.headerInUp_cases p header s <;> rw [e]
  · exact judged r hr
  · exact State.alarmsLaw_leftUp (judged r hr).mid (by simp) (by simp)
      (fun q hq => by rw [State.rx_setRx, if_neg hq]) (by simp [hr'])

theorem State.alarmsLaw_lastByte {s : State} (p : Path) (hd : Header) (payload check : List Byte) (h : s.alarmsLaw) :
    (s.lastByte p hd payload check).2.alarmsLaw := by
  have hr : (s.setRx p { s.rx p with reception := none }).alarmsLaw := State.alarmsLaw_setRx h Iff.rfl
  obtain ⟨b, -, -, e⟩ | e := State.lastByte_cases p hd payload check s <;> rw [e]
  · exact hr
  · exact State.alarmsLaw_of_eq hr (by simp) (by simp) (by simp) (by simp) (by simp) (by simp)

theorem State.alarmsLaw_lastOrCut {s : State} (p : Path) (last : Option (List Byte × List Byte)) (h : s.alarmsLaw) :
    (s.lastOrCut p last).2.alarmsLaw := by
  obtain ⟨-, e⟩ | ⟨hd, payload, check, -, -, e⟩ | ⟨hd, -, -, e⟩ := State.lastOrCut_cases p last s <;> rw [e]
  · exact h
  · exact State.alarmsLaw_lastByte p hd payload check h
  · exact State.alarmsLaw_countPath p _ h

/-! ## Out, reset, load -/

theorem State.alarmsLaw_freeSent {s : State} (h : s.alarmsLaw) : s.freeSent.alarmsLaw := by
  unfold State.freeSent
  split
  · exact State.alarmsLaw_freeBuffers 1 (State.alarmsLaw_of_eq h rfl rfl rfl rfl rfl rfl)
  · exact h

theorem State.alarmsLaw_advancePosition {s : State} (h : s.alarmsLaw) : s.advancePosition.alarmsLaw := by
  obtain ⟨-, e⟩ | ⟨-, -, e⟩ | ⟨-, e⟩ := State.advancePosition_cases s <;> rw [e]
  · exact State.alarmsLaw_roundBoundary h
  · exact State.alarmsLaw_of_eq h rfl rfl rfl rfl rfl rfl
  · exact h

/-- A cell taken from a queue leaves a RUNNING flow RUNNING and makes none RUNNING. -/
theorem Ctx.taken_conditions (rest : List Buffer) (saturated : Bool) (e : Entry) (c : Ctx) :
    (c.taken rest saturated).unprotected e = c.unprotected e ∧ (c.taken rest saturated).silent = c.silent := by
  have hs : (c.taken rest saturated).state = .running ↔ c.state = .running := by
    unfold Ctx.taken
    dsimp only
    split
    · next hd =>
      simp only [Bool.and_eq_true, decide_eq_true_eq] at hd
      simp [hd.2]
    · exact Iff.rfl
  simp only [Ctx.unprotected, Ctx.silent, hs]
  exact ⟨rfl, rfl⟩

theorem State.alarmsLaw_useSlot {s : State} (h : s.alarmsLaw) : s.useSlot.alarmsLaw := by
  have hu : ({ s with sched := { s.sched with slotUsed := true } } : State).alarmsLaw :=
    State.alarmsLaw_of_eq h rfl rfl rfl rfl rfl rfl
  obtain e | ⟨k, n, others, -, -, e⟩ | ⟨k, n, others, b, rest, -, -, e⟩ := State.useSlot_cases s <;> rw [e]
  · exact State.alarmsLaw_of_eq hu rfl rfl rfl rfl rfl rfl
  · exact State.alarmsLaw_of_eq hu rfl rfl rfl rfl rfl rfl
  · have hf := State.alarmsLaw_setFlow hu (Ctx.taken_conditions rest (saturates (s.entry n) s.timeBase b) (s.entry n)
      (s.flow n)).1 (Ctx.taken_conditions rest (saturates (s.entry n) s.timeBase b) (s.entry n) (s.flow n)).2
    exact State.alarmsLaw_of_eq hf rfl rfl rfl rfl rfl rfl

/-- The full-reset values meet the law, whatever the lines' signal (R185). -/
theorem State.alarmsLaw_reset : State.reset.alarmsLaw := by
  have fresh : ∀ n : Index, State.reset.flow n = Ctx.fresh .none 0 := State.flow_reset rfl
  intro k
  cases k <;> simp [State.condition, fresh, Ctx.unprotected, Ctx.silent, Ctx.fresh] <;> decide

theorem State.alarmsLaw_fullReset (phase : Phase) (s : State) : (s.fullReset phase).alarmsLaw :=
  State.alarmsLaw_of_eq State.alarmsLaw_reset rfl rfl rfl rfl rfl rfl

theorem Receiver.released_up (r : Receiver) : r.released.state = .up ↔ r.state = .up := by
  unfold Receiver.released
  split
  · next h =>
    simp only [Bool.and_eq_true, decide_eq_true_eq] at h
    simp [h.2]
  · exact Iff.rfl

theorem State.alarmsLaw_releaseReset {s : State} (addr : BitVec 5) (h : s.alarmsLaw) : (s.releaseReset addr).alarmsLaw := by
  have ha : (s.setRx .a s.rxA.released).alarmsLaw := State.alarmsLaw_setRx h (Receiver.released_up _)
  have hb : ((s.setRx .a s.rxA.released).setRx .b s.rxB.released).alarmsLaw :=
    State.alarmsLaw_setRx ha (Receiver.released_up _)
  exact State.alarmsLaw_of_eq hb rfl rfl rfl rfl rfl rfl

theorem State.alarmsLaw_loadInstant {s : State} (h : s.alarmsLaw) : s.loadInstant.alarmsLaw := by
  have ht : s.loadedTables.alarmsBut AlarmKind.ofFlows := State.alarmsMid_of_eq h.mid rfl rfl rfl rfl
  have hr : s.loadReported.alarmsLaw := by
    unfold State.loadReported
    split
    · exact State.alarmsLaw_reportFlows (State.alarmsBut_latch _ ht)
    · exact State.alarmsLaw_reportFlows ht
  rw [State.loadInstant_eq]
  split
  · exact State.alarmsLaw_of_eq hr rfl rfl rfl rfl rfl rfl
  · exact hr

theorem Effect.keeps_alarmsLaw {s t : State} (h : s.alarmsLaw) (he : Effect s t) : t.alarmsLaw := by
  cases he with
  | still => exact h
  | powerUp => exact State.alarmsLaw_of_eq (State.alarmsLaw_fullReset .heldPower s) rfl rfl rfl rfl rfl rfl
  | resetPin => exact State.alarmsLaw_fullReset _ s
  | released addr => exact State.alarmsLaw_releaseReset addr h
  | loaded => exact State.alarmsLaw_loadInstant h
  | detected p =>
    refine State.alarmsLaw_setRx h ?_
    split
    · exact Receiver.released_up _
    · exact Iff.rfl
  | lost p out => exact State.alarmsLaw_setRx h (by simp [Receiver.down, out])
  | lostUp p last up =>
    exact State.alarmsLaw_takeDelivered _ (State.alarmsLaw_leftUp (State.alarmsLaw_lastOrCut p last h).mid (by simp)
      (by simp) (fun q hq => by rw [State.rx_setRx, if_neg hq]) (by simp [Receiver.down]))
  | found p hunt => exact State.alarmsLaw_setRx h (by simp [hunt])
  | hunted p bytes recent hunt => exact State.alarmsLaw_setRx h Iff.rfl
  | checked p header check => exact State.alarmsLaw_headerInCheck header h check
  | judged p header up => exact State.alarmsLaw_headerInUp header h
  | ended p hd payload check => exact State.alarmsLaw_takeDelivered _ (State.alarmsLaw_lastByte p hd payload check h)
  | seeding i =>
    cases i with
    | flow n => exact State.alarmsLaw_changeFlow n _ h.mid
    | m => exact State.alarmsLaw_settleAgent (State.alarmsLaw_of_eq h rfl rfl rfl rfl rfl rfl)
  | gap i =>
    have hl := State.alarmsLaw_latch .loss h
    cases i with
    | flow n => exact State.alarmsLaw_changeFlow n _ hl.mid
    | m => exact State.alarmsLaw_settleAgent (State.alarmsLaw_of_eq hl rfl rfl rfl rfl rfl rfl)
  | presence i p =>
    cases i with
    | flow n => exact State.alarmsLaw_changeFlow n _ h.mid
    | m => exact State.alarmsLaw_of_eq h rfl rfl rfl rfl rfl rfl
  | boundary => exact State.alarmsLaw_roundBoundary h
  | outActive => exact State.alarmsLaw_useSlot (State.alarmsLaw_advancePosition (State.alarmsLaw_freeSent h))
  | outSilent | outStarting | returnSilent | returnStarting | notified =>
    exact State.alarmsLaw_of_eq h rfl rfl rfl rfl rfl rfl
  | returnActive addr =>
    obtain ⟨-, e⟩ | ⟨r, left, -, ⟨-, e⟩ | ⟨-, e⟩⟩ := State.returnTake_cases addr { s with addrPins := addr } <;> rw [e]
    · exact State.alarmsLaw_of_eq h rfl rfl rfl rfl rfl rfl
    · exact State.alarmsLaw_releaseReset addr (State.alarmsLaw_fullReset _ _)
    · exact State.alarmsLaw_settleAgent (State.alarmsLaw_of_eq h rfl rfl rfl rfl rfl rfl)
  | written ok slot image =>
    have hw : (s.writeEnded ok slot image).alarmsLaw := State.alarmsLaw_of_eq h rfl rfl rfl rfl rfl rfl
    rw [State.endWrite_eq]
    split
    · exact hw
    · exact State.alarmsLaw_latch _ hw
  | command c => exact State.alarmsLaw_settleAgent (State.alarmsLaw_deliver _ c h)

/-- Settles O60: every operation that changes a condition reports it, and a report latches what it records. -/
theorem alarmCopiesFollowTheConditions : Obligations.AlarmCopiesFollowTheConditions :=
  step_leads (fun _ _ h => State.alarmsLaw_of_eq h rfl rfl rfl rfl rfl rfl)
    (fun _ _ h => State.alarmsLaw_of_eq h (by simp) (by simp) (by simp) (by simp) (by simp) (by simp))
    fun _ _ h he => he.keeps_alarmsLaw h

end Sys2Proof.Machine
end

section
/-! PROOFS. What judging an arrival can answer (R25 to R37): one case for each kind of change of the context's record. -/

namespace Sys2Proof.Machine

open Sys2Proof

/-- What the judging of arrival `b` can answer for context `c`: only counted, compared with a kept copy, taken into the held
set, taken as the first cell, or, behind a resync, refused or taken as the first cell. -/
inductive Ctx.JudgedAs (p : Params) (free : Nat) (b : Buffer) (c : Ctx) : Judged → Prop
  | counted (d : Disposition) (k : FlowCounters) (runs : Nat) (idle : d.marks = false)
      (bound : runs = c.runCount ∨ c.state = .running ∧ runs < Config.resyncRun) :
      JudgedAs p free b c { ctx := { c with counters := k, runCount := runs }, disp := d, flushed := 0, events := [] }
  | compared (k : FlowCounters) (skew : SkewRecord) (held : List HeldRec) (history : List HistPos)
      (events : List AlarmKind) (alive : c.state = .seeding ∨ c.state = .running)
      (seen : held = c.held ∨ held = markHeldSeen b.cell.seq c.held) (size : history.length = c.history.length) :
      JudgedAs p free b c { ctx := { c with counters := k, skew := skew, held := held, history := history },
                            disp := .duplicate, flushed := 0, events := events }
  | held (alive : c.state = .seeding ∨ c.state = .running) (inside : seqDist c.nes b.cell.seq < p.window)
      (new : findHeld c.held b.cell.seq = none) (room : c.occupancy < p.quota) (buffer : free ≠ 0) :
      JudgedAs p free b c { ctx := c.hold b, disp := .accepted, flushed := 0, events := [] }
  | seeded (unseeded : c.state = .unseeded) (room : c.occupancy < p.quota) (buffer : free ≠ 0) :
      JudgedAs p free b c { ctx := c.seed p b, disp := .accepted, flushed := 0, events := [] }
  | resyncRefused (running : c.state = .running) (d : Disposition) (k : FlowCounters) (idle : d.marks = false) :
      JudgedAs p free b c { ctx := { c.countOutOfWindow.resyncEmptied with counters := k }, disp := d,
                            flushed := c.held.length, events := [.resync] }
  | resyncSeeded (running : c.state = .running) (buffer : free + c.held.length ≠ 0) :
      JudgedAs p free b c { ctx := c.countOutOfWindow.resyncEmptied.seed p b, disp := .accepted,
                            flushed := c.held.length, events := [.resync] }

/-- The acceptance test takes the cell, or counts a refusal and changes nothing else (R26, R70). -/
theorem Ctx.tryAccept_cases (p : Params) (free : Nat) (take : Ctx → Ctx) (c : Ctx) :
    (c.occupancy < p.quota ∧ free ≠ 0 ∧
      c.tryAccept p free take = { ctx := take c, disp := .accepted, flushed := 0, events := [] }) ∨
    ∃ d k, d.marks = false ∧
      c.tryAccept p free take = { ctx := { c with counters := k }, disp := d, flushed := 0, events := [] } := by
  unfold Ctx.tryAccept acceptanceTest
  dsimp only
  by_cases hq : p.quota ≤ c.occupancy
  · exact .inr ⟨.quotaDrop, _, rfl, by rw [if_pos hq]; rfl⟩
  · by_cases hf : free = 0
    · exact .inr ⟨.noBuffer, _, rfl, by rw [if_neg hq, if_pos hf]; rfl⟩
    · exact .inl ⟨Nat.lt_of_not_le hq, hf, by rw [if_neg hq, if_neg hf]; rfl⟩

section
variable {p : Params} {free : Nat} {b : Buffer} {c : Ctx}

theorem Ctx.duplicateOfHeld_judgedAs (limit : Nat) (h : HeldRec) (alive : c.state = .seeding ∨ c.state = .running) :
    Ctx.JudgedAs p free b c (c.duplicateOfHeld limit h b) :=
  .compared _ _ _ _ _ alive (.inr rfl) rfl

theorem Ctx.tryHold_judgedAs (alive : c.state = .seeding ∨ c.state = .running)
    (inside : seqDist c.nes b.cell.seq < p.window) (new : findHeld c.held b.cell.seq = none) :
    Ctx.JudgedAs p free b c (c.tryAccept p free (Ctx.hold b)) := by
  obtain ⟨hq, hf, e⟩ | ⟨d, k, hd, e⟩ := Ctx.tryAccept_cases p free (Ctx.hold b) c <;> rw [e]
  · exact .held alive inside new hq hf
  · exact .counted d k c.runCount hd (.inl rfl)

theorem Ctx.judgeInside_judgedAs (limit : Nat) (alive : c.state = .seeding ∨ c.state = .running)
    (inside : seqDist c.nes b.cell.seq < p.window) :
    Ctx.JudgedAs p free b c (match findHeld c.held b.cell.seq with
      | some h => c.duplicateOfHeld limit h b
      | none => c.tryAccept p free (Ctx.hold b)) := by
  split
  · exact Ctx.duplicateOfHeld_judgedAs limit _ alive
  · exact Ctx.tryHold_judgedAs alive inside ‹_›

theorem Ctx.judgeSeeding_judgedAs (limit : Nat) (seeding : c.state = .seeding) :
    Ctx.JudgedAs p free b c (c.judgeSeeding p limit free b) := by
  unfold Ctx.judgeSeeding
  split
  · exact Ctx.judgeInside_judgedAs limit (.inl seeding) ‹_›
  · exact .counted .outOfWindow _ c.runCount rfl (.inl rfl)

theorem Ctx.judgeFarAhead_judgedAs (running : c.state = .running) :
    Ctx.JudgedAs p free b c (c.judgeFarAhead p free b) := by
  unfold Ctx.judgeFarAhead
  split
  · exact .counted .outOfWindow _ _ rfl (.inr ⟨running, ‹_›⟩)
  · unfold Ctx.resync
    obtain ⟨-, hf, e⟩ | ⟨d, k, hd, e⟩ := Ctx.tryAccept_cases p (free + c.countOutOfWindow.held.length)
      (Ctx.seed p b) c.countOutOfWindow.resyncEmptied <;> rw [e]
    · exact .resyncSeeded running hf
    · exact .resyncRefused running d k hd

theorem Ctx.judgeBehind_judgedAs (limit behind : Nat) (running : c.state = .running) :
    Ctx.JudgedAs p free b c (c.judgeBehind limit behind b) := by
  unfold Ctx.judgeBehind
  split
  · exact .compared _ _ _ _ _ (.inr running) (.inl rfl) (List.length_set ..)
  · exact .counted .late _ c.runCount rfl (.inl rfl)

/-- Whatever the state, judging answers in one of these ways. -/
theorem Ctx.judge_judgedAs (p : Params) (limit free : Nat) (b : Buffer) (c : Ctx) :
    Ctx.JudgedAs p free b c (c.judge p limit free b) := by
  unfold Ctx.judge
  split
  · next h =>
    obtain ⟨hq, hf, e⟩ | ⟨d, k, hd, e⟩ := Ctx.tryAccept_cases p free (Ctx.seed p b) c <;> rw [e]
    · exact .seeded h hq hf
    · exact .counted d k c.runCount hd (.inl rfl)
  · exact Ctx.judgeSeeding_judgedAs limit ‹_›
  · next h =>
    unfold Ctx.judgeRunning
    dsimp only
    split
    · exact Ctx.judgeInside_judgedAs limit (.inr h) ‹_›
    · split
      · exact Ctx.judgeFarAhead_judgedAs h
      · exact Ctx.judgeBehind_judgedAs limit _ h
  · exact .counted .late c.counters c.runCount rfl (.inl rfl)
  · exact .counted .late c.counters c.runCount rfl (.inl rfl)

/-- Judging leaves the output queue, the serving class, the renumber counter and presence (R25). -/
theorem Ctx.JudgedAs.keeps {j : Judged} (h : Ctx.JudgedAs p free b c j) :
    j.ctx.queue = c.queue ∧ j.ctx.servingClass = c.servingClass ∧ j.ctx.renumber = c.renumber ∧
      j.ctx.presA = c.presA ∧ j.ctx.presB = c.presB := by
  cases h <;> exact ⟨rfl, rfl, rfl, rfl, rfl⟩

end

/-- Marking a path touches its presence record alone (R51). -/
@[simp] theorem Ctx.setPres_keeps (q : Path) (r : Presence) (c : Ctx) :
    (c.setPres q r).state = c.state ∧ (c.setPres q r).nes = c.nes ∧ (c.setPres q r).seedingStamp = c.seedingStamp ∧
    (c.setPres q r).seedingDeadline = c.seedingDeadline ∧ (c.setPres q r).gapDeadline = c.gapDeadline ∧
    (c.setPres q r).held = c.held ∧ (c.setPres q r).queue = c.queue ∧ (c.setPres q r).servingClass = c.servingClass ∧
    (c.setPres q r).runCount = c.runCount ∧ (c.setPres q r).renumber = c.renumber ∧ (c.setPres q r).skew = c.skew ∧
    (c.setPres q r).history = c.history ∧ (c.setPres q r).counters = c.counters := by
  cases q <;> exact ⟨rfl, rfl, rfl, rfl, rfl, rfl, rfl, rfl, rfl, rfl, rfl, rfl, rfl⟩

/-- The context behind an arrival is the judged one with a path marked, or as it is (R51). -/
theorem State.markArrival_cases (b : Buffer) (j : Judged) (s : State) :
    s.markArrival b j = j.ctx ∨ ∃ r, s.markArrival b j = j.ctx.setPres b.path r := by
  unfold State.markArrival
  split
  · exact .inr ⟨_, rfl⟩
  · exact .inl rfl

end Sys2Proof.Machine
end

section
/-! PROOFS. Class rings and output queues (R83 to R86). -/

namespace Sys2Proof.Machine

open Sys2Proof

/-- The law of the rings over the 128 flow contexts. -/
def State.ringed (s : State) : Prop := s.flows.length = 128 ∧ s.ringsLaw

theorem State.ringed_of_eq {s t : State} (h : s.ringed) (hf : t.flows = s.flows)
    (hr : t.sched.rings = s.sched.rings) : t.ringed := by
  have flow : ∀ n, t.flow n = s.flow n := State.flow_of_flows hf
  have ring : ∀ k, t.ring k = s.ring k := State.ring_of_sched hr
  obtain ⟨hl, h8, hk⟩ := h
  refine ⟨by rw [hf, hl], by rw [hr, h8], fun k => ?_⟩
  simp only [flow, ring]
  exact hk k

theorem State.ringed_onlyAlarms {s t : State} (h : s.ringed) (ha : s.onlyAlarms t) : t.ringed := by
  obtain ⟨e, -, -⟩ := ha
  rw [e]
  exact State.ringed_of_eq h rfl rfl

/-- With no queue and no ring member anywhere the law holds. -/
theorem State.ringed_empty {s : State} (hl : s.flows.length = 128) (hr : s.sched.rings = List.replicate 8 [])
    (hq : ∀ n, (s.flow n).queue = []) : s.ringed := by
  have ring : ∀ k : Fin 8, s.ring k = [] := fun k => by
    rw [State.ring, hr, List.getD_eq_getElem?_getD, List.getElem?_replicate_of_lt k.isLt]
    rfl
  refine ⟨hl, by rw [hr]; rfl, fun k => ?_⟩
  rw [ring k]
  exact ⟨List.nodup_nil, fun n => by simp [hq n]⟩

theorem nodup_snoc {α : Type} {l : List α} {a : α} (h : l.Nodup) (ha : a ∉ l) : (l ++ [a]).Nodup :=
  List.concat_eq_append ▸ List.Nodup.concat ha h

section
variable {s : State} {n : Index} {c : Ctx}

/-- A flow written back whose queue only grew joins its ring as its queue turns non-empty (R84). -/
theorem State.ringed_putFlow (h : s.ringed)
    (hq : (s.flow n).queue ≠ [] → c.queue ≠ [] ∧ c.servingClass = (s.flow n).servingClass) : (s.putFlow n c).ringed := by
  obtain ⟨hl, h8, hk⟩ := h
  refine ⟨by rw [State.putFlow_flows, List.length_set, hl], by simp [h8], fun k => ?_⟩
  obtain ⟨nodup, mem⟩ := hk k
  have hn : n ∈ s.ring k → (s.flow n).queue ≠ [] := fun hm => ((mem n).mp hm).1
  rw [State.ring_putFlow h8]
  refine ⟨?_, fun i => ?_⟩
  · split
    · next hj =>
      obtain ⟨-, he, -⟩ := hj
      exact nodup_snoc nodup fun hm => hn hm he
    · exact nodup
  · by_cases hi : i = n
    · subst hi
      rw [State.flow_putFlow_self hl]
      split
      · next hj =>
        obtain ⟨rfl, -, hne⟩ := hj
        simp [hne]
      · next hj =>
        rw [mem i]
        by_cases he : (s.flow i).queue = []
        · simp only [he, ne_eq, not_true_eq_false, false_and, false_iff, not_and]
          exact fun hne hc => hj ⟨hc.symm, he, hne⟩
        · obtain ⟨hne, hc⟩ := hq he
          simp [he, hne, hc]
    · rw [State.flow_putFlow_ne hi, ← mem i]
      split
      · simp [hi]
      · exact Iff.rfl

/-- A flow written back with queue and class as they were stays in its ring. -/
theorem State.ringed_setFlow (h : s.ringed) (hq : c.queue = (s.flow n).queue)
    (hc : c.servingClass = (s.flow n).servingClass) : (s.setFlow n c).ringed := by
  obtain ⟨hl, h8, hk⟩ := h
  refine ⟨by simp [hl], h8, fun k => ⟨(hk k).1, fun i => ?_⟩⟩
  rw [State.setFlow_ring, (hk k).2 i]
  by_cases hi : i = n
  · subst hi
    rw [State.flow_setFlow_self hl, hq, hc]
  · rw [State.flow_setFlow_ne hi]

/-- A flow that takes a new class moves to the tail of its ring (R86). -/
theorem State.ringed_moveRing (h : s.ringed) (hq : c.queue = (s.flow n).queue) :
    ((s.setFlow n c).moveRing n (s.flow n).servingClass c.servingClass).ringed := by
  obtain ⟨hl, h8, hk⟩ := h
  have self : (s.setFlow n c).flow n = c := State.flow_setFlow_self hl n c
  have away : ∀ {k : Fin 8}, k ≠ (s.flow n).servingClass → n ∉ s.ring k := fun hne hm =>
    hne ((hk _).2 n |>.mp hm).2.symm
  unfold State.moveRing
  rw [self]
  split
  · next hsame =>
    by_cases he : (s.flow n).queue = []
    · refine ⟨by simp [hl], h8, fun k => ⟨(hk k).1, fun i => ?_⟩⟩
      rw [State.setFlow_ring, (hk k).2 i]
      by_cases hi : i = n
      · subst hi
        rw [self, hq]
        simp [he]
      · rw [State.flow_setFlow_ne hi]
    · exact State.ringed_setFlow ⟨hl, h8, hk⟩ hq (hsame.resolve_right (by rw [hq]; exact he)).symm
  · next hmove =>
    obtain ⟨hne, hqe⟩ := not_or.mp hmove
    refine ⟨by simp [hl], by simp [State.joinRing, State.leaveRing, h8], fun k => ?_⟩
    have ring : ((s.setFlow n c).leaveRing (s.flow n).servingClass n |>.joinRing c.servingClass n).ring k
        = if k = c.servingClass then s.ring k ++ [n]
          else if k = (s.flow n).servingClass then (s.ring k).filter (· != n) else s.ring k := by
      unfold State.joinRing State.leaveRing
      by_cases hkn : k = c.servingClass
      · subst hkn
        rw [State.ring_setRing_self (by simp [h8]), State.ring_setRing_ne (Ne.symm hne), if_pos rfl]
        rfl
      · rw [State.ring_setRing_ne hkn, if_neg hkn]
        by_cases hko : k = (s.flow n).servingClass
        · subst hko
          rw [State.ring_setRing_self (by simpa using h8), if_pos rfl]
          rfl
        · rw [State.ring_setRing_ne hko, if_neg hko]
          rfl
    obtain ⟨nodup, mem⟩ := hk k
    rw [ring]
    refine ⟨?_, fun i => ?_⟩
    · split
      · next hkn =>
        subst hkn
        exact nodup_snoc nodup (away (Ne.symm hne))
      · split
        · exact nodup.filter _
        · exact nodup
    · rw [State.joinRing_flow, State.leaveRing_flow]
      by_cases hi : i = n
      · subst hi
        rw [self]
        split
        · next hkn => simp [hqe, hkn]
        · next hkn =>
          split
          · simp [Ne.symm hkn]
          · next hko => simp [away hko, Ne.symm hkn]
      · rw [State.flow_setFlow_ne hi, ← mem i]
        split
        · simp [hi]
        · split
          · simp [hi]
          · exact Iff.rfl

/-- A flow that settles from a record with its queue and class keeps the rings (R39, R84). -/
theorem State.ringed_settleFlow (h : s.ringed) (hq : c.queue = (s.flow n).queue)
    (hc : c.servingClass = (s.flow n).servingClass) : (s.settleFlow n c).ringed := by
  obtain ⟨run, hr⟩ := Ctx.settle_released (s.entry n) s.timeBase c
  refine State.ringed_onlyAlarms (State.ringed_putFlow h fun hne => ⟨fun he => hne ?_, hr.servingClass.trans hc⟩)
    (State.settleFlow_onlyAlarms n c s)
  have := hr.queue
  rw [he, hq] at this
  simp only [List.map_nil, List.nil_eq, List.append_eq_nil_iff, List.map_eq_nil_iff] at this
  exact this.1

end

/-! ## The operations on flows -/

/-- What a change of a record does to queue and class: nothing. -/
def Ctx.sameQueue (c d : Ctx) : Prop := d.queue = c.queue ∧ d.servingClass = c.servingClass

theorem Ctx.sameQueue_markAbsent (p : Path) (c : Ctx) : c.sameQueue (c.markAbsent p) := by
  simp [Ctx.sameQueue, Ctx.markAbsent]

theorem Ctx.sameQueue_endSeeding (c : Ctx) : c.sameQueue c.endSeeding := by
  unfold Ctx.endSeeding
  split <;> exact ⟨rfl, rfl⟩

theorem Ctx.sameQueue_giveUpLowest (c : Ctx) : c.sameQueue c.giveUpLowest := by
  unfold Ctx.giveUpLowest
  split <;> exact ⟨rfl, rfl⟩

theorem Ctx.sameQueue_clearGroup (group : Byte) (c : Ctx) : c.sameQueue (c.clearGroup group) := by
  unfold Ctx.clearGroup
  split
  · exact ⟨rfl, rfl⟩
  · split <;> exact ⟨rfl, rfl⟩

theorem Ctx.sameQueue_retime (timeout : Nat) (now : Time) (c : Ctx) : c.sameQueue (c.retime timeout now) := ⟨rfl, rfl⟩

theorem State.sameQueue_markArrival {n : Index} {b : Buffer} {j : Judged} {s : State} {p : Params} {free : Nat}
    (h : Ctx.JudgedAs p free b (s.flow n) j) : (s.flow n).sameQueue (s.markArrival b j) := by
  obtain ⟨hq, hc, -⟩ := h.keeps
  obtain e | ⟨r, e⟩ := State.markArrival_cases b j s <;> rw [e]
  · exact ⟨hq, hc⟩
  · simp [Ctx.sameQueue, hq, hc]

section
variable {s : State}

theorem State.ringed_reportFlows (h : s.ringed) : s.reportFlows.ringed :=
  State.ringed_onlyAlarms h (State.reportFlows_onlyAlarms s)

theorem State.ringed_changeFlow (h : s.ringed) {n : Index} {f : Ctx → Ctx} (hf : ∀ c : Ctx, c.sameQueue (f c)) :
    (s.changeFlow n f).ringed :=
  State.ringed_reportFlows (State.ringed_settleFlow h (hf _).1 (hf _).2)

theorem State.ringed_pathAbsent (h : s.ringed) (p : Path) : (s.pathAbsent p).ringed :=
  State.ringed_reportFlows (State.forFlows_induct (P := State.ringed) (fun _ _ ht => State.ringed_settleFlow ht
    (Ctx.sameQueue_markAbsent p _).1 (Ctx.sameQueue_markAbsent p _).2) _ (State.ringed_of_eq h rfl rfl))

theorem State.ringed_leftUp (h : s.ringed) (p : Path) : (s.leftUp p).ringed :=
  State.ringed_pathAbsent (State.ringed_onlyAlarms h (State.report_onlyAlarms _ _ s)) p

theorem State.ringed_writeSettings (h : s.ringed) (u : Settings) : (s.writeSettings u).ringed := by
  obtain ⟨-, e⟩ | ⟨-, e⟩ := State.writeSettings_cases u s <;> rw [e]
  · exact State.ringed_of_eq h rfl rfl
  · exact State.ringed_reportFlows (State.forFlows_induct (P := State.ringed)
      (fun _ _ ht => State.ringed_settleFlow ht (Ctx.sameQueue_retime _ _ _).1 (Ctx.sameQueue_retime _ _ _).2) _
      (State.ringed_of_eq h rfl rfl))

theorem State.ringed_freeBuffers (h : s.ringed) (n : Nat) : (s.freeBuffers n).ringed :=
  State.ringed_of_eq h (by simp) (by simp)

theorem State.ringed_flushFlow (h : s.ringed) (n : Index) : (s.flushFlow n).ringed :=
  State.ringed_reportFlows (State.ringed_freeBuffers (State.ringed_setFlow (c := (s.flow n).resetFlow) h rfl rfl) _)

theorem State.ringed_moveBuffers (h : s.ringed) (j : Judged) : (s.moveBuffers j).ringed := by
  unfold State.moveBuffers
  split
  · exact State.ringed_of_eq (State.ringed_freeBuffers h j.flushed) (by simp) (by simp)
  · exact State.ringed_freeBuffers h _

/-- The buffers of an arrival move in the pool, and the alarms follow. -/
@[simp] theorem State.moveBuffers_keeps (j : Judged) (s : State) :
    (s.moveBuffers j).flows = s.flows ∧ (s.moveBuffers j).m = s.m ∧ (s.moveBuffers j).sched = s.sched ∧
    (s.moveBuffers j).tables = s.tables ∧ (s.moveBuffers j).out = s.out ∧ (s.moveBuffers j).timeBase = s.timeBase ∧
    (s.moveBuffers j).rxA = s.rxA ∧ (s.moveBuffers j).rxB = s.rxB ∧ (s.moveBuffers j).phase = s.phase ∧
    (s.moveBuffers j).store = s.store ∧ (s.moveBuffers j).pending = s.pending ∧
    (s.moveBuffers j).addrPins = s.addrPins ∧ (s.moveBuffers j).device = s.device ∧
    (s.moveBuffers j).strays = s.strays ∧ (s.moveBuffers j).ret = s.ret := by
  unfold State.moveBuffers
  split <;> simp

theorem State.ringed_arriveFlow (h : s.ringed) (n : Index) (b : Buffer) : (s.arriveFlow n b).ringed := by
  have hj := Ctx.judge_judgedAs (Params.ofEntry (s.entry n)) s.tables.settings.skewTicks s.pool.free b (s.flow n)
  generalize hr : Ctx.judge _ _ _ b (s.flow n) = j at hj
  have hs := State.sameQueue_markArrival hj
  have hl : ((s.moveBuffers j).latchAll j.events).ringed :=
    State.ringed_onlyAlarms (State.ringed_moveBuffers h j) (State.latchAll_onlyAlarms _ _)
  have hf : ((s.moveBuffers j).latchAll j.events).flow n = s.flow n := State.flow_of_flows (by simp) n
  show (State.reportFlows _).ringed
  rw [hr]
  exact State.ringed_reportFlows (State.ringed_settleFlow hl (by rw [hf]; exact hs.1) (by rw [hf]; exact hs.2))

/-! ## Commits -/

/-- The commit release releases the whole held set (R141). -/
theorem Ctx.commitRelease_released (e : Entry) (c : Ctx) :
    Ctx.Released e c.held c (c.commitRelease e).1 ∧ (c.commitRelease e).1.held = [] := by
  have hc0 : ∀ c0 : Ctx, Ctx.Released e [] c c0 → Ctx.Released e c.held c (Ctx.releaseAll e c0.held c0) ∧
      (Ctx.releaseAll e c0.held c0).held = [] := fun c0 h0 => by
    have hh : c.held = c0.held := h0.held
    obtain ⟨h1, h2⟩ := Ctx.releaseAll_released e c0.held c0 rfl
    rw [hh]
    exact ⟨h0.trans h1, h2⟩
  have h : Ctx.Released e [] c (if c.state = .seeding then c.endSeeding else c) := by
    split
    · exact Ctx.released_endSeeding e c
    · exact .of_eq rfl rfl rfl rfl rfl rfl rfl rfl rfl
  obtain ⟨h1, h2⟩ := hc0 _ h
  exact ⟨⟨h1.held, h1.queue, h1.renumber, h1.emitted, h1.presA, h1.presB, h1.servingClass, h1.skew, h1.runCount⟩, h2⟩

theorem State.ringed_commitReleaseFlow (h : s.ringed) (old : Entry) (n : Index) : (s.commitReleaseFlow old n).ringed := by
  have hp : (s.putFlow n ((s.flow n).commitRelease old).1).ringed := by
    refine State.ringed_putFlow h fun hne => ?_
    obtain ⟨hr, -⟩ := Ctx.commitRelease_released old (s.flow n)
    refine ⟨fun he => hne ?_, hr.servingClass⟩
    have := hr.queue
    rw [he] at this
    simp only [List.map_nil, List.nil_eq, List.append_eq_nil_iff, List.map_eq_nil_iff] at this
    exact this.1
  unfold State.commitReleaseFlow
  dsimp only
  split
  · exact State.ringed_onlyAlarms hp (State.latch_onlyAlarms _ _)
  · exact hp

theorem State.ringed_commitTurnsValid (h : s.ringed) (new : Entry) (n : Index) : (s.commitTurnsValid new n).ringed :=
  State.ringed_moveRing (c := (s.flow n).newFlow new.cls) h rfl

theorem State.ringed_commitFields (h : s.ringed) (old new : Entry) (n : Index) : (s.commitFields old new n).ringed := by
  have hw : (s.commitWindow old new n).ringed := by
    unfold State.commitWindow
    split
    · exact State.ringed_freeBuffers (State.ringed_setFlow (c := (s.flow n).shrinkWindow new.window.size) h rfl rfl) _
    · exact h
  have hp : ((s.commitWindow old new n).commitPolicy old new n).ringed := by
    unfold State.commitPolicy
    split
    · exact hw
    · exact State.ringed_setFlow (c := ((s.commitWindow old new n).flow n).takePolicy new.policy) hw rfl rfl
  unfold State.commitFields State.commitClass
  split
  · exact hp
  · exact State.ringed_moveRing (c := { ((s.commitWindow old new n).commitPolicy old new n).flow n with
      servingClass := new.cls }) hp rfl

theorem State.ringed_commitIndex (h : s.ringed) (oldBank : Bank) (n : Index) : (s.commitIndex oldBank n).ringed := by
  obtain ⟨-, -, e⟩ | ⟨-, -, e⟩ | ⟨-, -, e⟩ | ⟨-, -, -, e⟩ | ⟨-, -, -, e⟩ := State.commitIndex_cases oldBank n s <;> rw [e]
  · exact h
  · exact State.ringed_commitTurnsValid h _ n
  · exact State.ringed_setFlow (c := Ctx.retire _) (State.ringed_commitReleaseFlow h _ n) rfl rfl
  · rw [State.commitSameLabel_eq]
    split
    · exact h
    · exact State.ringed_settleFlow (State.ringed_commitFields h _ _ n) rfl rfl
  · exact State.ringed_commitTurnsValid (State.ringed_commitReleaseFlow h _ n) _ n

theorem State.ringed_roundBoundary (h : s.ringed) : s.roundBoundary.ringed := by
  obtain ⟨-, e⟩ | ⟨tag, -, e⟩ := State.roundBoundary_cases s <;> rw [e]
  · exact State.ringed_of_eq h rfl rfl
  · have ht : s.rewound.commitTables.ringed := State.ringed_of_eq h rfl rfl
    have hc : s.rewound.commitContexts.ringed := State.ringed_reportFlows (State.forFlows_induct (P := State.ringed)
      (fun n _ hu => State.ringed_commitIndex hu _ n) _ ht)
    exact State.ringed_of_eq hc (by simp) (by simp)

/-! ## The agent -/

theorem Bank.freshFlows_flow {s : State} {bank : Bank} (h : s.flows = bank.freshFlows) (n : Index) :
    s.flow n = Ctx.restart (bank.entry n) := by
  have hn : n.val < (List.finRange 128).length := by simp
  rw [State.flow, h, Bank.freshFlows, List.getD_eq_getElem?_getD, List.getElem?_map, List.getElem?_eq_getElem hn]
  simp

theorem Bank.freshFlows_length (bank : Bank) : bank.freshFlows.length = 128 := by simp [Bank.freshFlows]

/-- Contexts as a reset leaves them, and empty rings. -/
theorem State.ringed_restarted {bank : Bank} (hf : s.flows = bank.freshFlows)
    (hr : s.sched.rings = List.replicate 8 []) : s.ringed :=
  State.ringed_empty (by rw [hf, Bank.freshFlows_length]) hr fun n => by
    rw [Bank.freshFlows_flow hf]
    rfl

theorem State.ringed_answer (h : s.ringed) (c : Command) (st : Status) (result : List Byte) :
    (s.answer c st result).ringed := State.ringed_of_eq h rfl rfl

theorem Executed.keeps_ringed {c : Command} {t : State} (h : s.ringed) (he : Executed c s t) : t.ringed := by
  cases he with
  | answered | lowWater | deviceCleared | alarmsCleared | pendingWritten | committed | straysCleared | saved | loadEmpty
  | restartQueued => exact State.ringed_of_eq h rfl rfl
  | cleared i group =>
    refine State.ringed_answer ?_ c _ _
    cases i with
    | flow n =>
      exact State.ringed_setFlow h (Ctx.sameQueue_clearGroup group _).1 (Ctx.sameQueue_clearGroup group _).2
    | m => exact State.ringed_of_eq h rfl rfl
  | settingsWritten u => exact State.ringed_answer (State.ringed_writeSettings h u) c _ _
  | imageLoaded slot image =>
    exact State.ringed_answer (State.ringed_writeSettings
      (State.ringed_of_eq (t := State.writePending image.bank { s with store := s.store.consult }) h rfl rfl) _) c _ _
  | flushed n => exact State.ringed_answer (State.ringed_flushFlow h n) c _ _
  | restarted =>
    have hr : s.restartedTraffic.ringed := State.ringed_restarted rfl rfl
    refine State.ringed_answer ?_ c _ _
    rw [State.trafficRestart_eq]
    exact State.ringed_reportFlows (State.ringed_onlyAlarms hr (State.report_onlyAlarms _ _ _))

theorem State.ringed_settleAgent (h : s.ringed) : s.settleAgent.ringed :=
  State.settle_keeps (P := State.ringed) (fun _ hu => State.ringed_of_eq hu (by simp) (by simp))
    (fun _ rest u _ hu _ _ he => Executed.keeps_ringed
      (s := { u with agent := { u.agent with commands := rest } }) (State.ringed_of_eq hu rfl rfl) he)
    (fun _ _ hu => State.ringed_of_eq hu (by simp) (by simp)) _ _ s h

theorem State.ringed_takeDelivered (h : s.ringed) (b : Option Buffer) : (State.takeDelivered b s).ringed := by
  cases b with
  | none => exact h
  | some b =>
    rw [State.takeDelivered_some]
    obtain ⟨-, e⟩ | ⟨-, -, e⟩ | ⟨n, -, -, -, e⟩ | ⟨n, -, -, -, e⟩ := State.classify_cases b s <;> rw [e]
    · have hl := State.ringed_onlyAlarms (State.ringed_moveBuffers h
        (s.m.judge s.mParams s.tables.settings.skewTicks s.pool.free b)) (State.latchAll_onlyAlarms
        (s.m.judge s.mParams s.tables.settings.skewTicks s.pool.free b).events _)
      exact State.ringed_settleAgent (State.ringed_of_eq hl rfl rfl)
    · exact State.ringed_of_eq h (by simp) (by simp)
    · exact State.ringed_arriveFlow h n b
    · exact State.ringed_of_eq h (by simp) (by simp)

/-! ## The effects -/

theorem State.ringed_advancePosition (h : s.ringed) : s.advancePosition.ringed := by
  obtain ⟨-, e⟩ | ⟨-, -, e⟩ | ⟨-, e⟩ := State.advancePosition_cases s <;> rw [e]
  · exact State.ringed_roundBoundary h
  · exact State.ringed_of_eq h rfl rfl
  · exact h

/-- The flow at the head of a ring loses its oldest cell and moves to the tail, or leaves the ring with its last (R85). -/
theorem State.ringed_served (h : s.ringed) {k : Fin 8} {n : Index} {others : List Index} {b : Buffer} {rest : List Buffer}
    (hk : s.ring k = n :: others) (hq : (s.flow n).queue = b :: rest) : (s.served k n others b rest).ringed := by
  obtain ⟨hl, h8, hr⟩ := h
  have hc : (s.flow n).servingClass = k := ((hr k).2 n |>.mp (by simp [hk])).2
  have hnd : n ∉ others ∧ others.Nodup := by simpa [hk] using (hr k).1
  have ring : ∀ j, (s.served k n others b rest).ring j
      = if j = k then (if rest.isEmpty then others else others ++ [n]) else s.ring j := fun j => by
    unfold State.served
    by_cases hj : j = k
    · subst hj
      rw [if_pos rfl]
      exact State.ring_setRing_self (by simpa using h8) j _
    · rw [if_neg hj]
      exact State.ring_setRing_ne hj _ _
  have self : (s.served k n others b rest).flow n = (s.flow n).taken rest (saturates (s.entry n) s.timeBase b) :=
    State.flow_setFlow_self hl n _
  have other : ∀ i, i ≠ n → (s.served k n others b rest).flow i = s.flow i := fun i hi => State.flow_setFlow_ne hi _ s
  have hmem : ∀ i, i ≠ n → (i ∈ s.ring k ↔ i ∈ others) := fun i hi => by simp [hk, hi]
  refine ⟨by simp [State.served, hl], by simp [State.served, h8], fun j => ?_⟩
  rw [ring j]
  by_cases hj : j = k
  · subst hj
    rw [if_pos rfl]
    refine ⟨?_, fun i => ?_⟩
    · split
      · exact hnd.2
      · exact nodup_snoc hnd.2 hnd.1
    · by_cases hi : i = n
      · subst hi
        rw [self]
        cases rest <;> simp [Ctx.taken, hnd.1, hc]
      · rw [other i hi, ← (hr j).2 i, hmem i hi]
        split
        · exact Iff.rfl
        · simp [hi]
  · rw [if_neg hj]
    refine ⟨(hr j).1, fun i => ?_⟩
    by_cases hi : i = n
    · subst hi
      rw [self, (hr j).2 i]
      simp [Ctx.taken, hc, Ne.symm hj]
    · rw [other i hi, (hr j).2 i]

theorem State.ringed_useSlot (h : s.ringed) : s.useSlot.ringed := by
  have hu : ({ s with sched := { s.sched with slotUsed := true } } : State).ringed := State.ringed_of_eq h rfl rfl
  obtain e | ⟨k, n, others, hk, hq, -⟩ | ⟨k, n, others, b, rest, hk, hq, e⟩ := State.useSlot_cases s
  · rw [e]
    exact State.ringed_of_eq hu rfl rfl
  · exact absurd hq ((hu.2.2 k).2 n |>.mp (by rw [hk]; exact List.mem_cons_self)).1
  · rw [e]
    exact State.ringed_served hu hk hq

theorem State.ringed_lastByte (h : s.ringed) (p : Path) (hd : Header) (payload check : List Byte) :
    (s.lastByte p hd payload check).2.ringed := by
  obtain ⟨b, -, -, e⟩ | e := State.lastByte_cases p hd payload check s <;> rw [e]
  · exact State.ringed_of_eq h (by simp) (by simp)
  · exact State.ringed_of_eq h (by simp) (by simp)

theorem State.ringed_fullReset (phase : Phase) : (s.fullReset phase).ringed :=
  State.ringed_empty (by simp [State.fullReset, State.reset]) rfl fun n => by
    rw [State.flow_reset (s := s.fullReset phase) rfl]
    rfl

theorem Effect.keeps_ringed {t : State} (quiet : s.quietUntilLoaded) (h : s.ringed) (he : Effect s t) : t.ringed := by
  cases he with
  | still => exact h
  | powerUp => exact State.ringed_of_eq (State.ringed_fullReset (s := s) .heldPower) rfl rfl
  | resetPin => exact State.ringed_fullReset _
  | released | outSilent | outStarting | returnSilent | returnStarting | notified => exact State.ringed_of_eq h rfl rfl
  | loaded starting =>
    have hq := (s.quietUntilLoaded_iff.mp quiet) (by rw [starting]; simp)
    exact State.ringed_onlyAlarms (s := s.loadedTables) (State.ringed_restarted rfl (congrArg Scheduler.rings hq.sched))
      (State.loadInstant_onlyAlarms s)
  | detected | lost | found | hunted => exact State.ringed_of_eq h (by simp) (by simp)
  | lostUp p last =>
    refine State.ringed_takeDelivered (State.ringed_leftUp (State.ringed_of_eq (s := (s.lastOrCut p last).2) ?_
      (by simp) (by simp)) p) _
    obtain ⟨-, e⟩ | ⟨hd, payload, check, -, -, e⟩ | ⟨hd, -, -, e⟩ := State.lastOrCut_cases p last s <;> rw [e]
    · exact h
    · exact State.ringed_lastByte h p hd payload check
    · exact State.ringed_of_eq h (by simp) (by simp)
  | checked p header check =>
    obtain ⟨r, e, -⟩ | ⟨r, f, e, -⟩ := State.headerInCheck_cases header check <;> rw [e]
    · exact State.ringed_of_eq h (by simp) (by simp)
    · exact State.ringed_of_eq h (by simp [State.judgeHeader_keeps]) (by simp [State.judgeHeader_keeps])
  | judged p header =>
    obtain ⟨r, e, -⟩ | ⟨r, r', e, -⟩ := State.headerInUp_cases p header s <;> rw [e]
    · exact State.ringed_of_eq h (by simp [State.judgeHeader_keeps]) (by simp [State.judgeHeader_keeps])
    · exact State.ringed_leftUp (State.ringed_of_eq h (by simp [State.judgeHeader_keeps])
        (by simp [State.judgeHeader_keeps])) p
  | ended p hd payload check => exact State.ringed_takeDelivered (State.ringed_lastByte h p hd payload check) _
  | seeding i =>
    cases i with
    | flow n => exact State.ringed_changeFlow h Ctx.sameQueue_endSeeding
    | m => exact State.ringed_settleAgent (State.ringed_of_eq h rfl rfl)
  | gap i =>
    have hl : (s.latch .loss).ringed := State.ringed_onlyAlarms h (State.latch_onlyAlarms _ _)
    cases i with
    | flow n => exact State.ringed_changeFlow hl Ctx.sameQueue_giveUpLowest
    | m => exact State.ringed_settleAgent (State.ringed_of_eq hl rfl rfl)
  | presence i p =>
    cases i with
    | flow n => exact State.ringed_changeFlow h (Ctx.sameQueue_markAbsent p)
    | m => exact State.ringed_of_eq h rfl rfl
  | boundary => exact State.ringed_roundBoundary h
  | outActive =>
    exact State.ringed_useSlot (State.ringed_advancePosition (State.ringed_of_eq h (by simp) (by simp)))
  | returnActive addr =>
    obtain ⟨-, e⟩ | ⟨r, left, -, ⟨-, e⟩ | ⟨-, e⟩⟩ := State.returnTake_cases addr { s with addrPins := addr } <;> rw [e]
    · exact State.ringed_of_eq h rfl rfl
    · exact State.ringed_of_eq (State.ringed_fullReset (s := State.sendReply r left { s with addrPins := addr }) .starting)
        rfl rfl
    · exact State.ringed_settleAgent (State.ringed_of_eq h rfl rfl)
  | written ok slot image =>
    exact State.ringed_onlyAlarms (s := s.writeEnded ok slot image) (State.ringed_of_eq h rfl rfl)
      (State.endWrite_onlyAlarms ok slot image s)
  | command c => exact State.ringed_settleAgent (State.ringed_of_eq h (by simp) (by simp))

end

/-- Settles O59: a flow joins its ring as its queue turns non-empty, and leaves it with its last cell; all else keeps queue
and class. -/
theorem ringsFollowTheQueues : Obligations.RingsFollowTheQueues := by
  intro s t hq hl hr h
  refine (step_leads (P := fun u => u.quietUntilLoaded ∧ u.ringed) (Q := State.ringed) (fun _ _ hp => hp) ?_
    (fun _ _ ⟨quiet, hp⟩ he => he.keeps_ringed quiet hp) s t ⟨hq, hl, hr⟩ h).2
  rintro u d ⟨quiet, hp⟩
  exact ⟨State.quietUntilLoaded_advance quiet d, State.ringed_of_eq hp (by simp) (by simp)⟩

end Sys2Proof.Machine
end

section
/-! PROOFS. One context between two changes: what it keeps while it still has to settle, and that settling ends with its law
(R22 to R24, R29 to R32, R56 to R59). -/

namespace Sys2Proof.Machine

open Sys2Proof

/-! ## Distances -/

theorem seqDist_self (n : Seq) : seqDist n n = 0 := by simp [seqDist]

theorem seqDist_lt (n a : Seq) : seqDist n a < 65536 := (a - n).isLt

theorem seqDist_injective {n a b : Seq} (h : seqDist n a = seqDist n b) : a = b := by
  have h' := BitVec.eq_of_toNat_eq h
  simpa using congrArg (· + n) h'

theorem seqDist_eq_zero {n a : Seq} : seqDist n a = 0 ↔ a = n := by
  refine ⟨fun h => seqDist_injective (h.trans (seqDist_self n).symm), ?_⟩
  rintro rfl
  exact seqDist_self a

/-- Moving the origin forward to `m`, a number no nearer than `m` comes nearer by `m`'s distance. -/
theorem seqDist_shift {n m a : Seq} (h : seqDist n m ≤ seqDist n a) : seqDist m a = seqDist n a - seqDist n m := by
  unfold seqDist at *
  simp only [BitVec.toNat_sub] at *
  omega

theorem seqDist_succ {n a : Seq} (h : a ≠ n) : seqDist (n + 1) a = seqDist n a - 1 := by
  have h1 : seqDist n (n + 1) = 1 := by simp [seqDist]
  have hp : seqDist n a ≠ 0 := fun e => h (seqDist_eq_zero.mp e)
  rw [seqDist_shift (by rw [h1]; omega), h1]

/-! ## The held set -/

/-- The held set stands in its order, by distance ahead of `nes`, and inside the window (R22, R31). -/
def heldOrdered (window : Nat) (nes : Seq) (held : List HeldRec) : Prop :=
  held.Pairwise (fun x y => seqDist nes x.buffer.cell.seq < seqDist nes y.buffer.cell.seq) ∧
    ∀ h ∈ held, seqDist nes h.buffer.cell.seq < window

theorem heldOrdered_nil (window : Nat) (nes : Seq) : heldOrdered window nes [] := ⟨.nil, by simp⟩

theorem heldOrdered.mono {window window' : Nat} {nes : Seq} {held : List HeldRec} (h : heldOrdered window nes held)
    (hw : window ≤ window') : heldOrdered window' nes held :=
  ⟨h.1, fun r hr => Nat.lt_of_lt_of_le (h.2 r hr) hw⟩

/-- The records seen from the lowest one's number. -/
theorem heldOrdered.fromLowest {window : Nat} {nes : Seq} {h : HeldRec} {rest : List HeldRec}
    (ho : heldOrdered window nes (h :: rest)) : heldOrdered window h.buffer.cell.seq (h :: rest) := by
  obtain ⟨hp, hw⟩ := ho
  have nearer : ∀ r ∈ h :: rest, seqDist h.buffer.cell.seq r.buffer.cell.seq
      = seqDist nes r.buffer.cell.seq - seqDist nes h.buffer.cell.seq := by
    intro r hr
    refine seqDist_shift ?_
    obtain rfl | hr := List.mem_cons.mp hr
    · exact Nat.le_refl _
    · exact Nat.le_of_lt ((List.pairwise_cons.mp hp).1 r hr)
  refine ⟨List.Pairwise.imp_of_mem (fun {x y} hx hy hxy => ?_) hp, fun r hr => ?_⟩
  · have hlow : ∀ r ∈ h :: rest, seqDist nes h.buffer.cell.seq ≤ seqDist nes r.buffer.cell.seq := fun r hr => by
      obtain rfl | hr := List.mem_cons.mp hr
      · exact Nat.le_refl _
      · exact Nat.le_of_lt ((List.pairwise_cons.mp hp).1 r hr)
    have := hlow x hx
    rw [nearer x hx, nearer y hy]
    omega
  · rw [nearer r hr]
    exact Nat.lt_of_le_of_lt (Nat.sub_le _ _) (hw r hr)

/-- The records behind one at NES, seen from the number that follows. -/
theorem heldOrdered.behindNes {window : Nat} {nes : Seq} {h : HeldRec} {rest : List HeldRec}
    (ho : heldOrdered window nes (h :: rest)) (hn : h.buffer.cell.seq = nes) : heldOrdered window (nes + 1) rest := by
  obtain ⟨hp, hw⟩ := ho
  obtain ⟨hlow, hp⟩ := List.pairwise_cons.mp hp
  have hne : ∀ r ∈ rest, r.buffer.cell.seq ≠ nes := fun r hr e => by
    have := hlow r hr
    rw [hn, e] at this
    exact Nat.lt_irrefl _ this
  refine ⟨List.Pairwise.imp_of_mem (fun {x y} hx hy hxy => ?_) hp, fun r hr => ?_⟩
  · have hx0 : seqDist nes x.buffer.cell.seq ≠ 0 := fun e => hne x hx (seqDist_eq_zero.mp e)
    rw [seqDist_succ (hne x hx), seqDist_succ (hne y hy)]
    omega
  · rw [seqDist_succ (hne r hr)]
    exact Nat.lt_of_le_of_lt (Nat.sub_le _ _) (hw r (List.mem_cons_of_mem _ hr))

theorem mem_insertHeld {nes : Seq} {h r : HeldRec} : ∀ {held : List HeldRec},
    r ∈ insertHeld nes h held ↔ r = h ∨ r ∈ held
  | [] => by simp [insertHeld]
  | x :: xs => by
    unfold insertHeld
    split
    · simp
    · rw [List.mem_cons, mem_insertHeld, List.mem_cons]
      tauto

theorem insertHeld_length (nes : Seq) (h : HeldRec) : ∀ held : List HeldRec,
    (insertHeld nes h held).length = held.length + 1
  | [] => rfl
  | x :: xs => by
    unfold insertHeld
    split
    · rfl
    · simp [insertHeld_length nes h xs]

theorem heldOrdered.insert {window : Nat} {nes : Seq} {h : HeldRec} : ∀ {held : List HeldRec},
    heldOrdered window nes held → seqDist nes h.buffer.cell.seq < window →
    (∀ r ∈ held, r.buffer.cell.seq ≠ h.buffer.cell.seq) → heldOrdered window nes (insertHeld nes h held)
  | [], _, hin, _ => ⟨List.pairwise_singleton _ _, by simpa [insertHeld] using hin⟩
  | x :: xs, ⟨hp, hw⟩, hin, hnew => by
    obtain ⟨hlow, hp'⟩ := List.pairwise_cons.mp hp
    have hne : seqDist nes x.buffer.cell.seq ≠ seqDist nes h.buffer.cell.seq := fun e =>
      hnew x List.mem_cons_self (seqDist_injective e)
    unfold insertHeld
    split
    · next hlt =>
      refine ⟨List.pairwise_cons.mpr ⟨fun r hr => ?_, hp⟩, fun r hr => ?_⟩
      · obtain rfl | hr := List.mem_cons.mp hr
        · exact hlt
        · exact Nat.lt_trans hlt (hlow r hr)
      · obtain rfl | hr := List.mem_cons.mp hr
        · exact hin
        · exact hw r hr
    · next hge =>
      have ih := heldOrdered.insert (held := xs) ⟨hp', fun r hr => hw r (List.mem_cons_of_mem _ hr)⟩ hin
        fun r hr => hnew r (List.mem_cons_of_mem _ hr)
      refine ⟨List.pairwise_cons.mpr ⟨fun r hr => ?_, ih.1⟩, fun r hr => ?_⟩
      · obtain rfl | hr := mem_insertHeld.mp hr
        · omega
        · exact hlow r hr
      · obtain rfl | hr := List.mem_cons.mp hr
        · exact hw r List.mem_cons_self
        · exact ih.2 r hr

theorem heldOrdered.seen {window : Nat} {nes : Seq} {held : List HeldRec} (seq : Seq) (h : heldOrdered window nes held) :
    heldOrdered window nes (markHeldSeen seq held) := by
  have same : ∀ r : HeldRec,
      (if r.buffer.cell.seq == seq then { r with otherSeen := true } else r).buffer = r.buffer := fun r => by
    split <;> rfl
  obtain ⟨hp, hw⟩ := h
  refine ⟨?_, fun r hr => ?_⟩
  · unfold markHeldSeen
    rw [List.pairwise_map]
    exact hp.imp fun {x y} hxy => by rw [same, same]; exact hxy
  · obtain ⟨x, hx, rfl⟩ := List.mem_map.mp hr
    rw [same]
    exact hw x hx

theorem heldOrdered.filter {window : Nat} {nes : Seq} {held : List HeldRec} (h : heldOrdered window nes held)
    (f : HeldRec → Bool) : heldOrdered window nes (held.filter f) :=
  ⟨h.1.filter _, fun r hr => h.2 r (List.mem_of_mem_filter hr)⟩

theorem findHeld_none {held : List HeldRec} {seq : Seq} (h : findHeld held seq = none) :
    ∀ r ∈ held, r.buffer.cell.seq ≠ seq := by
  unfold findHeld at h
  rw [List.find?_eq_none] at h
  exact fun r hr => by simpa using h r hr

theorem pushHistory_length {history : List HistPos} (pos : HistPos) (k : Nat)
    (h : history.length = Config.historyPlaces) : (pushHistory pos k history).length = Config.historyPlaces := by
  simp only [pushHistory, List.length_take, List.length_append, List.length_replicate, h]
  omega

/-! ## The law before and after settling -/

/-- The law of a context that may still have to settle: it is `Ctx.lawful` but for a record at NES and for the deadlines,
which stand only where the state has them. -/
structure Ctx.able (p : Params) (c : Ctx) : Prop where
  ordered : heldOrdered p.window c.nes c.held
  alive : c.held ≠ [] → c.state = .seeding ∨ c.state = .running
  gap : c.gapDeadline.isSome = true → c.state = .running
  stamp : c.seedingStamp.isSome = true ↔ c.state = .seeding
  deadline : c.seedingDeadline.isSome = true → c.state = .seeding
  history : c.history.length = Config.historyPlaces
  runs : c.runCount < Config.resyncRun
  idle : c.state ≠ .running → c.runCount = 0

theorem Ctx.lawful.able {p : Params} {c : Ctx} (h : c.lawful p) : c.able p := by
  obtain ⟨hp, hw, -, ha, hg, hs, hd, hh, hr, hi⟩ := h
  exact ⟨⟨hp, hw⟩, ha, fun e => (hg.mp e).1, hs, hd.mp, hh, hr, hi⟩

/-- A context has nothing left to do: no record waits at NES and its deadline is the one it should have (R29, R31, R58). -/
def Ctx.atRest (p : Params) (c : Ctx) : Prop :=
  (c.state = .running → c.held = [] → c.gapDeadline = none) ∧
    (∀ h rest, c.state = .running → c.held = h :: rest →
      h.buffer.cell.seq ≠ c.nes ∧ c.gapDeadline = some (deadlineAt (c.applicableHold p) h.buffer.stamp)) ∧
    ∀ stamp, c.state = .seeding → c.seedingStamp = some stamp →
      c.seedingDeadline = some (deadlineAt (c.applicableHold p) stamp)

theorem deadlineReached_iff (hold : Nat) (now stamp : Time) :
    deadlineReached hold now stamp = true ↔ hold ≤ ticksSince now stamp := decide_eq_true_iff

/-! ## The next act, case by case -/

section
variable {p : Params} {now : Time} {c : Ctx} {h : HeldRec} {rest : List HeldRec} {stamp : Time}

/-- In RUNNING with nothing held there is no gap deadline (R58). -/
theorem Ctx.micro_running_nil (hs : c.state = .running) (hh : c.held = []) :
    c.micro p now = .stay { c with gapDeadline := none } := by
  unfold Ctx.micro
  rw [hs, hh]

/-- In RUNNING the record at NES is released (R32). -/
theorem Ctx.micro_release (hs : c.state = .running) (hh : c.held = h :: rest) (hn : h.buffer.cell.seq = c.nes) :
    c.micro p now = .release (c.releaseRec h rest) h.buffer := by
  simp only [Ctx.micro, hs, hh, hn, if_true]

/-- Above a gap the deadline is computed, and stands where it is as before or not past (R58). -/
theorem Ctx.micro_gap_waits (hs : c.state = .running) (hh : c.held = h :: rest) (hn : h.buffer.cell.seq ≠ c.nes)
    (hw : c.gapDeadline = some (deadlineAt (c.applicableHold p) h.buffer.stamp) ∨
      ticksSince now h.buffer.stamp < c.applicableHold p) :
    c.micro p now = .stay { c with gapDeadline := some (deadlineAt (c.applicableHold p) h.buffer.stamp) } := by
  by_cases hg : c.gapDeadline = some (deadlineAt (c.applicableHold p) h.buffer.stamp)
  · have e : { c with gapDeadline := some (deadlineAt (c.applicableHold p) h.buffer.stamp) } = c := by rw [← hg]
    rw [e]
    simp only [Ctx.micro, hs, hh, hn, hg, if_false, if_true]
  · have hr : deadlineReached (c.applicableHold p) now h.buffer.stamp = false :=
      decide_eq_false (Nat.not_le.mpr (hw.resolve_left hg))
    simp only [Ctx.micro, hs, hh, hn, hg, hr, if_false, Bool.false_eq_true]

/-- A gap deadline that changes to the past is reached at once (R59). -/
theorem Ctx.micro_gap_past (hs : c.state = .running) (hh : c.held = h :: rest) (hn : h.buffer.cell.seq ≠ c.nes)
    (hg : c.gapDeadline ≠ some (deadlineAt (c.applicableHold p) h.buffer.stamp))
    (hr : c.applicableHold p ≤ ticksSince now h.buffer.stamp) : c.micro p now = .move (c.giveUpGap h) true := by
  simp only [Ctx.micro, hs, hh, hn, hg, (deadlineReached_iff _ _ _).mpr hr, if_false, if_true]

theorem Ctx.micro_unstamped (hs : c.state = .seeding) (hh : c.seedingStamp = none) : c.micro p now = .stay c := by
  simp only [Ctx.micro, hs, hh]

/-- In SEEDING the seeding deadline stands where it is as before or not past (R29). -/
theorem Ctx.micro_seeding_waits (hs : c.state = .seeding) (hh : c.seedingStamp = some stamp)
    (hw : c.seedingDeadline = some (deadlineAt (c.applicableHold p) stamp) ∨
      ticksSince now stamp < c.applicableHold p) :
    c.micro p now = .stay { c with seedingDeadline := some (deadlineAt (c.applicableHold p) stamp) } := by
  by_cases hg : c.seedingDeadline = some (deadlineAt (c.applicableHold p) stamp)
  · have e : { c with seedingDeadline := some (deadlineAt (c.applicableHold p) stamp) } = c := by rw [← hg]
    rw [e]
    simp only [Ctx.micro, hs, hh, hg, if_true]
  · have hr : deadlineReached (c.applicableHold p) now stamp = false :=
      decide_eq_false (Nat.not_le.mpr (hw.resolve_left hg))
    simp only [Ctx.micro, hs, hh, hg, hr, if_false, Bool.false_eq_true]

/-- A seeding deadline that changes to the past is reached at once (R30). -/
theorem Ctx.micro_seeding_past (hs : c.state = .seeding) (hh : c.seedingStamp = some stamp)
    (hg : c.seedingDeadline ≠ some (deadlineAt (c.applicableHold p) stamp))
    (hr : c.applicableHold p ≤ ticksSince now stamp) : c.micro p now = .move c.endSeeding false := by
  simp only [Ctx.micro, hs, hh, hg, (deadlineReached_iff _ _ _).mpr hr, if_false, if_true]

end

/-- Whether anything is left to do does not depend on the instant. -/
theorem Ctx.settled_iff (p : Params) (now : Time) (c : Ctx) : c.settled p now ↔ c.atRest p := by
  unfold Ctx.settled Ctx.atRest
  cases hs : c.state with
  | none | unseeded | draining => simp [Ctx.micro_idle p now (c := c) (by simp [hs]) (by simp [hs])]
  | running =>
    cases hh : c.held with
    | nil =>
      rw [Ctx.micro_running_nil hs hh]
      refine ⟨fun e => ⟨fun _ _ => ?_, by simp, by simp⟩, fun e => ?_⟩
      · exact (congrArg Ctx.gapDeadline (Micro.stay.inj e)).symm
      · rw [← e.1 rfl rfl]
    | cons h rest =>
      by_cases hn : h.buffer.cell.seq = c.nes
      · simp [Ctx.micro_release hs hh hn, hn]
      · by_cases hg : c.gapDeadline = some (deadlineAt (c.applicableHold p) h.buffer.stamp)
        · simp [Ctx.micro_gap_waits (now := now) hs hh hn (.inl hg), hn, ← hg]
        · by_cases hr : c.applicableHold p ≤ ticksSince now h.buffer.stamp
          · simp [Ctx.micro_gap_past hs hh hn hg hr, hn, hg]
          · rw [Ctx.micro_gap_waits hs hh hn (.inr (Nat.lt_of_not_le hr))]
            refine ⟨fun e => absurd (congrArg Ctx.gapDeadline (Micro.stay.inj e)).symm hg, fun e => ?_⟩
            exact absurd (e.2.1 h rest rfl rfl).2 hg
  | seeding =>
    cases hh : c.seedingStamp with
    | none => simp [Ctx.micro_unstamped hs hh]
    | some stamp =>
      by_cases hg : c.seedingDeadline = some (deadlineAt (c.applicableHold p) stamp)
      · simp [Ctx.micro_seeding_waits (now := now) hs hh (.inl hg), ← hg]
      · by_cases hr : c.applicableHold p ≤ ticksSince now stamp
        · simp [Ctx.micro_seeding_past hs hh hg hr, hg]
        · rw [Ctx.micro_seeding_waits hs hh (.inr (Nat.lt_of_not_le hr))]
          refine ⟨fun e => absurd (congrArg Ctx.seedingDeadline (Micro.stay.inj e)).symm hg, fun e => ?_⟩
          exact absurd (e.2.2 stamp rfl rfl) hg

/-- Settled and able is lawful. -/
theorem Ctx.able.lawful {p : Params} {c : Ctx} (h : c.able p) (hr : c.atRest p) : c.lawful p := by
  obtain ⟨hempty, hgap, hseed⟩ := hr
  obtain ⟨⟨hp, hw⟩, ha, hg, hs, hd, hh, hb, hi⟩ := h
  refine ⟨hp, hw, fun hrun r hm => ?_, ha, ⟨fun e => ⟨hg e, fun he => ?_⟩, fun ⟨hrun, hne⟩ => ?_⟩, hs,
    ⟨hd, fun hseeding => ?_⟩, hh, hb, hi⟩
  · cases he : c.held with
    | nil => simp [he] at hm
    | cons low rest =>
      obtain ⟨hn, -⟩ := hgap low rest hrun he
      rw [he] at hp hm
      obtain rfl | hm := List.mem_cons.mp hm
      · exact fun e => hn (seqDist_eq_zero.mp e)
      · exact fun e => Nat.not_lt_zero _ (e ▸ (List.pairwise_cons.mp hp).1 r hm)
  · rw [hempty (hg e) he] at e
    simp at e
  · cases he : c.held with
    | nil => exact absurd he hne
    | cons low rest => rw [(hgap low rest hrun he).2]; rfl
  · cases he : c.seedingStamp with
    | none => simp [he, hseeding] at hs
    | some stamp => rw [hseed stamp hseeding he]; rfl

/-! ## Acts keep the law -/

section
variable {p : Params} {now : Time} {c : Ctx}

theorem Ctx.able.giveUpGap {h : HeldRec} {rest : List HeldRec} (ha : c.able p)
    (hh : c.held = h :: rest) : (c.giveUpGap h).able p := by
  obtain ⟨ho, halive, hg, hst, hd, hhist, hr, hi⟩ := ha
  rw [hh] at ho
  refine ⟨?_, halive, by simp [Ctx.giveUpGap], hst, hd, pushHistory_length _ _ hhist, hr, hi⟩
  show heldOrdered p.window h.buffer.cell.seq c.held
  rw [hh]
  exact ho.fromLowest

theorem Ctx.able.releaseRec {h : HeldRec} {rest : List HeldRec} (ha : c.able p) (hs : c.state = .running)
    (hh : c.held = h :: rest) (hn : h.buffer.cell.seq = c.nes) : (c.releaseRec h rest).able p := by
  obtain ⟨ho, halive, hg, hst, hd, hhist, hr, hi⟩ := ha
  rw [hh] at ho
  exact ⟨ho.behindNes hn, fun _ => .inr hs, by simp [Ctx.releaseRec], hst, hd, pushHistory_length _ _ hhist, hr, hi⟩

theorem Ctx.able.endSeeding (ha : c.able p) (hs : c.state = .seeding) : c.endSeeding.able p := by
  obtain ⟨ho, halive, hg, hst, hd, hhist, hr, hi⟩ := ha
  have hgap : c.gapDeadline.isSome = true → False := fun e => by simp [hs] at hg; simp [hg] at e
  have hrun : c.runCount = 0 := hi (by simp [hs])
  unfold Ctx.endSeeding
  split
  · next he =>
    exact ⟨by rw [he]; exact heldOrdered_nil _ _, fun e => absurd he e, fun e => (hgap e).elim, by simp, by simp, hhist,
      hr, fun _ => hrun⟩
  · next h rest he =>
    refine ⟨?_, fun _ => .inr rfl, by simp, by simp, by simp, hhist, hr, fun e => absurd rfl e⟩
    show heldOrdered p.window h.buffer.cell.seq c.held
    rw [he] at ho ⊢
    exact ho.fromLowest

theorem Ctx.able.giveUpLowest (ha : c.able p) : c.giveUpLowest.able p := by
  unfold Ctx.giveUpLowest
  split
  · exact ha
  · next hh => exact ha.giveUpGap hh

/-- The acts a context still needs before it has nothing left to do. -/
def Ctx.actsLeft (c : Ctx) : Nat :=
  if c.state = .seeding then 2 * c.held.length + 2
  else if ∃ h ∈ c.held.head?, h.buffer.cell.seq = c.nes then 2 * c.held.length else 2 * c.held.length + 1

theorem Ctx.actsLeft_le (c : Ctx) : c.actsLeft ≤ c.settleFuel := by
  unfold Ctx.actsLeft Ctx.settleFuel
  split
  · omega
  · split <;> omega

theorem Ctx.actsLeft_pos (c : Ctx) : 0 < c.actsLeft := by
  unfold Ctx.actsLeft
  split
  · omega
  · split
    · next h =>
      obtain ⟨r, hr, -⟩ := h
      cases hh : c.held with
      | nil => simp [hh] at hr
      | cons _ _ => simp
    · omega

theorem Ctx.actsLeft_le_of_not_seeding (hs : c.state ≠ .seeding) : c.actsLeft ≤ 2 * c.held.length + 1 := by
  unfold Ctx.actsLeft
  rw [if_neg hs]
  split <;> omega

theorem Ctx.actsLeft_atNes {h : HeldRec} {rest : List HeldRec} (hs : c.state ≠ .seeding) (hh : c.held = h :: rest)
    (hn : h.buffer.cell.seq = c.nes) : c.actsLeft = 2 * c.held.length := by
  unfold Ctx.actsLeft
  rw [if_neg hs, if_pos ⟨h, by simp [hh], hn⟩]

theorem Ctx.actsLeft_aboveGap {h : HeldRec} {rest : List HeldRec} (hs : c.state ≠ .seeding) (hh : c.held = h :: rest)
    (hn : h.buffer.cell.seq ≠ c.nes) : c.actsLeft = 2 * c.held.length + 1 := by
  unfold Ctx.actsLeft
  rw [if_neg hs, if_neg]
  rintro ⟨r, hr, e⟩
  rw [hh, List.head?_cons, Option.mem_some_iff] at hr
  exact hn (hr ▸ e)

/-- Where a look at the context finds nothing to do, it is able, and at rest. -/
theorem Ctx.able.stays {c' : Ctx} (ha : c.able p) (hm : c.micro p now = .stay c') :
    c'.able p ∧ c'.atRest p ∧ c'.queue = c.queue := by
  cases hs : c.state with
  | none | unseeded | draining =>
    rw [Ctx.micro_idle p now (c := c) (by simp [hs]) (by simp [hs])] at hm
    cases hm
    exact ⟨ha, by simp [Ctx.atRest, hs], rfl⟩
  | running =>
    have hst : c.seedingStamp = none := by simpa [hs] using ha.stamp
    cases hh : c.held with
    | nil =>
      rw [Ctx.micro_running_nil hs hh] at hm
      cases hm
      exact ⟨⟨ha.ordered, ha.alive, by simp, ha.stamp, ha.deadline, ha.history, ha.runs, ha.idle⟩,
        by simp [Ctx.atRest, hs, hh], rfl⟩
    | cons h rest =>
      by_cases hn : h.buffer.cell.seq = c.nes
      · rw [Ctx.micro_release hs hh hn] at hm
        cases hm
      · by_cases hw : c.gapDeadline = some (deadlineAt (c.applicableHold p) h.buffer.stamp) ∨
          ticksSince now h.buffer.stamp < c.applicableHold p
        · rw [Ctx.micro_gap_waits hs hh hn hw] at hm
          cases hm
          refine ⟨⟨ha.ordered, ha.alive, fun _ => hs, ha.stamp, ha.deadline, ha.history, ha.runs, ha.idle⟩, ?_, rfl⟩
          refine ⟨by simp [hh], fun h' rest' _ e => ?_, by simp [hs]⟩
          obtain ⟨rfl, rfl⟩ := List.cons.inj (hh.symm.trans e)
          exact ⟨hn, rfl⟩
        · obtain ⟨hg, hr⟩ := not_or.mp hw
          rw [Ctx.micro_gap_past hs hh hn hg (Nat.le_of_not_lt hr)] at hm
          cases hm
  | seeding =>
    cases hh : c.seedingStamp with
    | none =>
      have some := ha.stamp.mpr hs
      rw [hh] at some
      cases some
    | some stamp =>
      by_cases hw : c.seedingDeadline = some (deadlineAt (c.applicableHold p) stamp) ∨
          ticksSince now stamp < c.applicableHold p
      · rw [Ctx.micro_seeding_waits hs hh hw] at hm
        cases hm
        refine ⟨⟨ha.ordered, ha.alive, ha.gap, ha.stamp, fun _ => hs, ha.history, ha.runs, ha.idle⟩, ?_, rfl⟩
        refine ⟨by simp [hs], by simp [hs], fun stamp' _ e => ?_⟩
        cases hh.symm.trans e
        rfl
      · obtain ⟨hg, hr⟩ := not_or.mp hw
        rw [Ctx.micro_seeding_past hs hh hg (Nat.le_of_not_lt hr)] at hm
        cases hm

theorem Ctx.stateAgrees_alive {v : Bool} {d : Ctx} (hc : c.stateAgrees v) (hs : c.state = .seeding ∨ c.state = .running)
    (hd : d.state = .unseeded ∨ d.state = .seeding ∨ d.state = .running) : d.stateAgrees v := by
  cases v with
  | true => exact hd
  | false => obtain hs | hs := hs <;> simp [Ctx.stateAgrees, hs] at hc

theorem Ctx.endSeeding_state (c : Ctx) :
    c.endSeeding.state = .unseeded ∧ c.held = [] ∨
      c.endSeeding.state = .running ∧ ∃ h rest, c.held = h :: rest ∧ c.endSeeding.nes = h.buffer.cell.seq := by
  unfold Ctx.endSeeding
  split
  · exact .inl ⟨rfl, ‹_›⟩
  · exact .inr ⟨rfl, _, _, ‹_›, rfl⟩

@[simp] theorem Ctx.endSeeding_held (c : Ctx) : c.endSeeding.held = c.held ∧ c.endSeeding.queue = c.queue := by
  unfold Ctx.endSeeding
  split <;> exact ⟨rfl, rfl⟩

/-- With enough acts, settling ends with a context that has its law and nothing left to do, its state still in agreement
with its entry. -/
theorem Ctx.settleRun_lawful {v : Bool} : ∀ (fuel : Nat) {c : Ctx}, c.able p → c.stateAgrees v → c.actsLeft ≤ fuel →
    (c.settleRun p now fuel).ctx.able p ∧ (c.settleRun p now fuel).ctx.atRest p ∧
      (c.settleRun p now fuel).ctx.stateAgrees v
  | 0, c, _, _, hf => absurd hf (Nat.not_le.mpr c.actsLeft_pos)
  | fuel + 1, c, ha, hv, hf => by
    unfold Ctx.settleRun
    obtain ⟨g, d, hm⟩ | ⟨h, rest, hs, hh, hn, -, hm⟩ | ⟨stamp, hs, -, -, hm⟩ | ⟨h, rest, hs, hh, hn, hm⟩ :=
      Ctx.micro_cases p now c
    · obtain ⟨h1, h2, -⟩ := ha.stays hm
      rw [hm]
      exact ⟨h1, h2, hv⟩
    · rw [hm]
      have hleft : (c.giveUpGap h).actsLeft = 2 * c.held.length :=
        Ctx.actsLeft_atNes (c := c.giveUpGap h) (by simp [Ctx.giveUpGap, hs]) hh rfl
      rw [Ctx.actsLeft_aboveGap (by simp [hs]) hh hn] at hf
      exact Ctx.settleRun_lawful fuel (ha.giveUpGap hh) hv (by omega)
    · rw [hm]
      have hleft : c.endSeeding.actsLeft ≤ 2 * c.held.length + 1 := by
        have := Ctx.actsLeft_le_of_not_seeding (c := c.endSeeding)
          (by obtain ⟨e, -⟩ | ⟨e, -⟩ := c.endSeeding_state <;> simp [e])
        rwa [c.endSeeding_held.1] at this
      have hfull : c.actsLeft = 2 * c.held.length + 2 := if_pos hs
      refine Ctx.settleRun_lawful fuel (ha.endSeeding hs) (Ctx.stateAgrees_alive hv (.inl hs) ?_) (by omega)
      obtain ⟨e, -⟩ | ⟨e, -⟩ := c.endSeeding_state <;> simp [e]
    · rw [hm]
      have hleft := Ctx.actsLeft_le_of_not_seeding (c := c.releaseRec h rest) (by simp [Ctx.releaseRec, hs])
      have hlen : (c.releaseRec h rest).held.length = rest.length := rfl
      rw [Ctx.actsLeft_atNes (by simp [hs]) hh hn, hh, List.length_cons] at hf
      exact Ctx.settleRun_lawful fuel (ha.releaseRec hs hh hn) hv (by omega)

end

end Sys2Proof.Machine
end

section
/-! PROOFS. What each change of a context's record makes of its law (R25 to R44, R139 to R147). -/

namespace Sys2Proof.Machine

open Sys2Proof

section
variable {p : Params} {c d : Ctx} {v : Bool}

theorem Ctx.able.of_eq (h : c.able p) (state : d.state = c.state) (nes : d.nes = c.nes) (held : d.held = c.held)
    (gap : d.gapDeadline = c.gapDeadline) (stamp : d.seedingStamp = c.seedingStamp)
    (deadline : d.seedingDeadline = c.seedingDeadline) (history : d.history = c.history)
    (runs : d.runCount = c.runCount) : d.able p := by
  obtain ⟨h1, h2, h3, h4, h5, h6, h7, h8⟩ := h
  exact ⟨by rw [nes, held]; exact h1, by rw [held, state]; exact h2, by rw [gap, state]; exact h3,
    by rw [stamp, state]; exact h4, by rw [deadline, state]; exact h5, by rw [history]; exact h6,
    by rw [runs]; exact h7, by rw [state, runs]; exact h8⟩

/-- Only the window of the parameters matters. -/
theorem Ctx.able.congr {p' : Params} (h : c.able p) (hw : p'.window = p.window) : c.able p' := by
  obtain ⟨h1, h2, h3, h4, h5, h6, h7, h8⟩ := h
  exact ⟨by rw [hw]; exact h1, h2, h3, h4, h5, h6, h7, h8⟩

/-- A context that holds nothing is able under every window. -/
theorem Ctx.able.of_empty {p' : Params} (h : c.able p) (hh : c.held = []) : c.able p' := by
  obtain ⟨-, h2, h3, h4, h5, h6, h7, h8⟩ := h
  exact ⟨by rw [hh]; exact heldOrdered_nil _ _, h2, h3, h4, h5, h6, h7, h8⟩

/-- Outside SEEDING and RUNNING nothing is left to do. -/
theorem Ctx.atRest_idle (hs : c.state ≠ .seeding) (hr : c.state ≠ .running) : c.atRest p :=
  ⟨fun e => absurd e hr, fun _ _ e => absurd e hr, fun _ e => absurd e hs⟩

theorem Ctx.atRest.of_eq (h : c.atRest p) (state : d.state = c.state) (nes : d.nes = c.nes) (held : d.held = c.held)
    (gap : d.gapDeadline = c.gapDeadline) (stamp : d.seedingStamp = c.seedingStamp)
    (deadline : d.seedingDeadline = c.seedingDeadline) (hold : d.applicableHold p = c.applicableHold p) :
    d.atRest p := by
  obtain ⟨h1, h2, h3⟩ := h
  exact ⟨by rw [state, held, gap]; exact h1, by rw [state, held, gap, nes, hold]; exact h2,
    by rw [state, stamp, deadline, hold]; exact h3⟩

theorem Ctx.stateAgrees.of_eq (h : c.stateAgrees v) (state : d.state = c.state) (queue : d.queue = c.queue) :
    d.stateAgrees v := by
  unfold Ctx.stateAgrees
  rw [state, queue]
  exact h

theorem Ctx.able.setPres (h : c.able p) (q : Path) (r : Presence) : (c.setPres q r).able p :=
  h.of_eq (by simp) (by simp) (by simp) (by simp) (by simp) (by simp) (by simp) (by simp)

theorem Ctx.able.markAbsent (h : c.able p) (q : Path) : (c.markAbsent q).able p := h.setPres q _

theorem Ctx.able.retime (h : c.able p) (timeout : Nat) (now : Time) : (c.retime timeout now).able p :=
  h.of_eq rfl rfl rfl rfl rfl rfl rfl rfl

theorem Ctx.clearGroup_keeps (group : Byte) (c : Ctx) :
    (c.clearGroup group).state = c.state ∧ (c.clearGroup group).nes = c.nes ∧ (c.clearGroup group).held = c.held ∧
    (c.clearGroup group).gapDeadline = c.gapDeadline ∧ (c.clearGroup group).seedingStamp = c.seedingStamp ∧
    (c.clearGroup group).seedingDeadline = c.seedingDeadline ∧ (c.clearGroup group).history = c.history ∧
    (c.clearGroup group).runCount = c.runCount ∧ (c.clearGroup group).queue = c.queue ∧
    (c.clearGroup group).servingClass = c.servingClass ∧ (c.clearGroup group).presA = c.presA ∧
    (c.clearGroup group).presB = c.presB := by
  unfold Ctx.clearGroup
  split
  · exact ⟨rfl, rfl, rfl, rfl, rfl, rfl, rfl, rfl, rfl, rfl, rfl, rfl⟩
  · split <;> exact ⟨rfl, rfl, rfl, rfl, rfl, rfl, rfl, rfl, rfl, rfl, rfl, rfl⟩

/-- The hold that applies is read from presence alone (R55). -/
theorem Ctx.applicableHold_congr (hA : d.presA = c.presA) (hB : d.presB = c.presB) :
    d.applicableHold p = c.applicableHold p := by
  unfold Ctx.applicableHold
  rw [hA, hB]

/-- Where hold and lone hold are one, presence does not matter: so for context M (R55). -/
theorem Ctx.applicableHold_lone (h : p.hold = p.loneHold) (c : Ctx) : c.applicableHold p = p.hold := by
  unfold Ctx.applicableHold
  split
  · rfl
  · exact h.symm

theorem emptyHistory_length : emptyHistory.length = Config.historyPlaces := List.length_replicate

theorem Ctx.fresh_able (p : Params) {st : CtxState} (hs : st ≠ .seeding) (cls : Fin 8) (queue : List Buffer) :
    ({ Ctx.fresh st cls with queue := queue } : Ctx).able p :=
  ⟨heldOrdered_nil _ _, by simp [Ctx.fresh], by simp [Ctx.fresh], by simp [Ctx.fresh, hs], by simp [Ctx.fresh],
    emptyHistory_length, by simp [Ctx.fresh, Config.resyncRun], fun _ => rfl⟩

/-! ## Judging -/

theorem seqDist_floor {w : Nat} (a : Seq) (hw : w < 65536) : seqDist (a - BitVec.ofNat 16 w) a = w := by
  unfold seqDist
  rw [sub_sub_cancel, BitVec.toNat_ofNat, Nat.mod_eq_of_lt hw]

/-- The first acceptance leaves its cell half a window ahead of the seeding floor (R27). -/
theorem Ctx.seed_able (hw : 0 < p.window) (hw' : p.window < 65536) (b : Buffer) (c : Ctx) : (c.seed p b).able p := by
  refine ⟨⟨List.pairwise_singleton _ _, fun h hh => ?_⟩, fun _ => .inl rfl, by simp [Ctx.seed], by simp [Ctx.seed],
    by simp [Ctx.seed], emptyHistory_length, by simp [Ctx.seed, Config.resyncRun], fun _ => rfl⟩
  rw [List.mem_singleton.mp hh]
  show seqDist (b.cell.seq - BitVec.ofNat 16 (p.window / 2)) b.cell.seq < p.window
  rw [seqDist_floor _ (by omega)]
  omega

theorem Ctx.JudgedAs.able {free : Nat} {b : Buffer} {j : Judged} (h : Ctx.JudgedAs p free b c j) (ha : c.able p)
    (hw : 0 < p.window) (hw' : p.window < 65536) : j.ctx.able p := by
  cases h with
  | counted d k runs idle bound =>
    obtain rfl | ⟨hrun, hlt⟩ := bound
    · exact ha.of_eq rfl rfl rfl rfl rfl rfl rfl rfl
    · exact ⟨ha.ordered, ha.alive, ha.gap, ha.stamp, ha.deadline, ha.history, hlt, fun e => absurd hrun e⟩
  | compared k skew held history events alive seen size =>
    refine ⟨?_, fun _ => alive, ha.gap, ha.stamp, ha.deadline, size.trans ha.history, ha.runs, ha.idle⟩
    obtain rfl | rfl := seen
    · exact ha.ordered
    · exact ha.ordered.seen _
  | held alive inside new =>
    exact ⟨ha.ordered.insert inside (findHeld_none new), fun _ => alive, ha.gap, ha.stamp, ha.deadline, ha.history,
      by simp [Ctx.hold, Config.resyncRun], fun _ => rfl⟩
  | seeded => exact Ctx.seed_able hw hw' b c
  | resyncRefused running d k idle =>
    have hst : c.seedingStamp = none := by simpa [running] using ha.stamp
    have hd : c.seedingDeadline = none := by simpa [running] using ha.deadline
    exact ⟨heldOrdered_nil _ _, fun e => absurd rfl e, by simp [Ctx.resyncEmptied],
      by simp [Ctx.resyncEmptied, Ctx.flushHeld, Ctx.countOutOfWindow, hst],
      by simp [Ctx.resyncEmptied, Ctx.flushHeld, Ctx.countOutOfWindow, hd], emptyHistory_length,
      by simp [Ctx.resyncEmptied, Config.resyncRun], fun _ => rfl⟩
  | resyncSeeded => exact Ctx.seed_able hw hw' b _

theorem Ctx.JudgedAs.stateAgrees {free : Nat} {b : Buffer} {j : Judged} (h : Ctx.JudgedAs p free b c j)
    (hv : c.stateAgrees v) : j.ctx.stateAgrees v := by
  cases h with
  | counted | compared | held => exact hv.of_eq rfl rfl
  | seeded unseeded =>
    cases v with
    | true => exact .inr (.inl rfl)
    | false => simp [Ctx.stateAgrees, unseeded] at hv
  | resyncRefused running => exact Ctx.stateAgrees_alive hv (.inr running) (.inl rfl)
  | resyncSeeded running => exact Ctx.stateAgrees_alive hv (.inr running) (.inr (.inl rfl))

end

/-! ## A flow context under its entry -/

/-- The law of a flow context that may still have to settle under entry `e`. -/
def Ctx.ready (e : Entry) (c : Ctx) : Prop := c.able (Params.ofEntry e) ∧ c.stateAgrees e.valid

/-- The law of a flow context under entry `e`, with nothing left to do. -/
def Ctx.sound (e : Entry) (c : Ctx) : Prop := c.ready e ∧ c.atRest (Params.ofEntry e)

theorem Ctx.sound_iff (e : Entry) (now : Time) (c : Ctx) :
    c.sound e ↔ c.lawful (Params.ofEntry e) ∧ c.settled (Params.ofEntry e) now ∧ c.stateAgrees e.valid := by
  rw [Ctx.settled_iff]
  constructor
  · rintro ⟨⟨ha, hv⟩, hr⟩
    exact ⟨ha.lawful hr, hr, hv⟩
  · rintro ⟨hl, hr, hv⟩
    exact ⟨⟨hl.able, hv⟩, hr⟩

theorem Ctx.stateAgrees_invalid {c : Ctx} (h : c.stateAgrees false) : c.state ≠ .seeding ∧ c.state ≠ .running := by
  obtain ⟨h, -⟩ | ⟨h, -⟩ : c.state = .none ∧ c.queue = [] ∨ c.state = .draining ∧ c.queue ≠ [] := h <;> simp [h]

/-- A ready flow context settles to a sound one (R39, R40, R58, R59). -/
theorem Ctx.settle_sound {e : Entry} {c : Ctx} (h : c.ready e) (now : Time) : (Ctx.settle e now c).1.sound e := by
  obtain ⟨ha, hv⟩ := h
  cases he : e.valid with
  | false =>
    rw [he] at hv
    obtain ⟨hs, hr⟩ := Ctx.stateAgrees_invalid hv
    rw [Ctx.settle_stay (Ctx.micro_idle _ now hs hr)]
    exact ⟨⟨ha, by rw [he]; exact hv⟩, Ctx.atRest_idle hs hr⟩
  | true =>
    obtain ⟨h1, h2, h3⟩ := Ctx.settleRun_lawful (now := now) c.settleFuel ha hv c.actsLeft_le
    have hq := fun bs d => Ctx.enqueueAll_keeps e bs d
    refine ⟨⟨h1.of_eq (by simp [Ctx.settle]) (by simp [Ctx.settle]) (by simp [Ctx.settle]) (by simp [Ctx.settle])
      (by simp [Ctx.settle]) (by simp [Ctx.settle]) (by simp [Ctx.settle]) (by simp [Ctx.settle]), ?_⟩, ?_⟩
    · rw [he] at h3 ⊢
      simpa [Ctx.stateAgrees, Ctx.settle] using h3
    · exact h2.of_eq (by simp [Ctx.settle]) (by simp [Ctx.settle]) (by simp [Ctx.settle]) (by simp [Ctx.settle])
        (by simp [Ctx.settle]) (by simp [Ctx.settle])
        (Ctx.applicableHold_congr (by simp [Ctx.settle]) (by simp [Ctx.settle]))

theorem Window.size_bounds (w : Window) : 0 < w.size ∧ w.size ≤ 256 := by
  cases w <;> exact ⟨by decide, by decide⟩

/-! ## Commits -/

theorem Ctx.releaseAll_history (e : Entry) : ∀ (held : List HeldRec) (c : Ctx),
    c.history.length = Config.historyPlaces → (Ctx.releaseAll e held c).history.length = Config.historyPlaces
  | [], _, h => h
  | _ :: rest, _, h => Ctx.releaseAll_history e rest _ (pushHistory_length _ _ (pushHistory_length _ _ h))

theorem Ctx.commitRelease_history (e : Entry) {c : Ctx} (h : c.history.length = Config.historyPlaces) :
    (c.commitRelease e).1.history.length = Config.historyPlaces := by
  unfold Ctx.commitRelease
  refine Ctx.releaseAll_history e _ _ ?_
  split
  · unfold Ctx.endSeeding
    split <;> exact h
  · exact h

/-- A retired context has the law of an invalid entry's (R42, R142). -/
theorem Ctx.retire_sound {e : Entry} {c : Ctx} (he : e.valid = false) (hh : c.held = [])
    (hist : c.history.length = Config.historyPlaces) : c.retire.sound e := by
  have hs : c.retire.state ≠ .seeding ∧ c.retire.state ≠ .running := by
    unfold Ctx.retire
    dsimp only
    split <;> simp
  refine ⟨⟨⟨?_, fun hne => absurd hh hne, by simp [Ctx.retire], ?_, by simp [Ctx.retire], hist,
    by simp [Ctx.retire, Config.resyncRun], fun _ => rfl⟩, ?_⟩, Ctx.atRest_idle hs.1 hs.2⟩
  · show heldOrdered _ _ c.held
    rw [hh]
    exact heldOrdered_nil _ _
  · simp [Ctx.retire] at hs ⊢
    simp [hs]
  · rw [he]
    cases hq : c.queue with
    | nil => exact .inl ⟨by simp [Ctx.retire, hq], hq⟩
    | cons b rest => exact .inr ⟨by simp [Ctx.retire, hq], by simp [Ctx.retire, hq]⟩

theorem Ctx.newFlow_sound {e : Entry} (he : e.valid = true) (c : Ctx) : (c.newFlow e.cls).sound e :=
  ⟨⟨Ctx.fresh_able _ (by simp) _ _, by rw [he]; exact .inl rfl⟩, Ctx.atRest_idle (by simp [Ctx.newFlow, Ctx.fresh])
    (by simp [Ctx.newFlow, Ctx.fresh])⟩

/-- The changes of one record that come before its deadline is looked at (R144 to R146, assumption 12). -/
def Ctx.commitFields (old new : Entry) (c : Ctx) : Ctx :=
  let c1 := if new.window.size < old.window.size then c.shrinkWindow new.window.size else c
  let c2 := if old.hold = new.hold ∧ old.loneHold = new.loneHold ∧ old.policy = new.policy then c1
    else c1.takePolicy new.policy
  if old.cls = new.cls then c2 else { c2 with servingClass := new.cls }

/-- What a commit makes of one context, by its old and new entry (R139). -/
def Ctx.committed (old new : Entry) (now : Time) (c : Ctx) : Ctx :=
  match old.valid, new.valid with
  | false, false => c
  | false, true => c.newFlow new.cls
  | true, false => (c.commitRelease old).1.retire
  | true, true =>
    if old.inLabel = new.inLabel then
      if old = new then c else (Ctx.settle new now (c.commitFields old new)).1
    else ((c.commitRelease old).1).newFlow new.cls

theorem Ctx.commitFields_ready {old new : Entry} {c : Ctx} (h : c.ready old) (hv : new.valid = old.valid) :
    (c.commitFields old new).ready new := by
  obtain ⟨ha, hs⟩ := h
  have hw : (if new.window.size < old.window.size then c.shrinkWindow new.window.size else c).ready new := by
    rw [Ctx.ready, hv]
    split
    · refine ⟨⟨⟨(ha.ordered.filter _).1, fun r hr => ?_⟩, fun hne => ha.alive fun e => hne ?_, ha.gap, ha.stamp,
        ha.deadline, ha.history, ha.runs, ha.idle⟩, hs⟩
      · exact of_decide_eq_true (List.mem_filter.mp hr).2
      · simp [Ctx.shrinkWindow, e]
    · next hle =>
      exact ⟨⟨ha.ordered.mono (Nat.le_of_not_lt hle), ha.alive, ha.gap, ha.stamp, ha.deadline, ha.history, ha.runs,
        ha.idle⟩, hs⟩
  unfold Ctx.commitFields
  dsimp only
  generalize (if new.window.size < old.window.size then c.shrinkWindow new.window.size else c) = c1 at hw
  obtain ⟨ha, hs⟩ := hw
  have hp : (if old.hold = new.hold ∧ old.loneHold = new.loneHold ∧ old.policy = new.policy then c1
      else c1.takePolicy new.policy).ready new := by
    split
    · exact ⟨ha, hs⟩
    · exact ⟨⟨ha.ordered, ha.alive, by simp [Ctx.takePolicy], ha.stamp, by simp [Ctx.takePolicy], ha.history, ha.runs,
        ha.idle⟩, hs⟩
  split
  · exact hp
  · exact ⟨hp.1.of_eq rfl rfl rfl rfl rfl rfl rfl rfl, hp.2⟩

/-- A commit leaves each context sound under its new entry (R138 to R146). -/
theorem Ctx.committed_sound {old new : Entry} {c : Ctx} (h : c.sound old) (now : Time) :
    (c.committed old new now).sound new := by
  obtain ⟨⟨ha, hv⟩, hr⟩ := h
  obtain ⟨-, hheld⟩ := Ctx.commitRelease_released old c
  have hist := Ctx.commitRelease_history old ha.history
  unfold Ctx.committed
  split
  · next ho hn =>
    rw [ho] at hv
    obtain ⟨hs, hr'⟩ := Ctx.stateAgrees_invalid hv
    have hh : c.held = [] := Classical.byContradiction fun e => by
      obtain e | e := ha.alive e
      · exact hs e
      · exact hr' e
    exact ⟨⟨ha.of_empty hh, by rw [hn]; exact hv⟩, Ctx.atRest_idle hs hr'⟩
  · exact Ctx.newFlow_sound ‹_› c
  · exact Ctx.retire_sound ‹_› hheld hist
  · next ho hn =>
    split
    · split
      · next e =>
        subst e
        exact ⟨⟨ha, hv⟩, hr⟩
      · exact Ctx.settle_sound (Ctx.commitFields_ready ⟨ha, hv⟩ (hn.trans ho.symm)) now
    · exact Ctx.newFlow_sound ‹_› _

/-! ## Other changes -/

theorem Ctx.resetFlow_sound {e : Entry} {c : Ctx} (he : e.valid = true) : c.resetFlow.sound e :=
  ⟨⟨⟨heldOrdered_nil _ _, by simp [Ctx.resetFlow, Ctx.flushHeld], by simp [Ctx.resetFlow],
    by simp [Ctx.resetFlow], by simp [Ctx.resetFlow], emptyHistory_length, by simp [Ctx.resetFlow, Config.resyncRun],
    fun _ => rfl⟩, by rw [he]; exact .inl rfl⟩,
    Ctx.atRest_idle (by simp [Ctx.resetFlow]) (by simp [Ctx.resetFlow])⟩

theorem Ctx.restart_sound (e : Entry) : (Ctx.restart e).sound e := by
  have ha : ∀ st : CtxState, st ≠ .seeding → (Ctx.fresh st e.cls).able (Params.ofEntry e) :=
    fun st hs => Ctx.fresh_able _ hs e.cls []
  unfold Ctx.restart
  split
  · next he =>
    exact ⟨⟨ha _ (by simp), by rw [he]; exact .inl rfl⟩, Ctx.atRest_idle (by simp [Ctx.fresh]) (by simp [Ctx.fresh])⟩
  · next he =>
    have he := Bool.eq_false_iff.mpr he
    exact ⟨⟨ha _ (by simp), by rw [he]; exact .inl ⟨rfl, rfl⟩⟩,
      Ctx.atRest_idle (by simp [Ctx.fresh]) (by simp [Ctx.fresh])⟩

theorem Ctx.sound.clearGroup {e : Entry} {c : Ctx} (h : c.sound e) (group : Byte) : (c.clearGroup group).sound e := by
  obtain ⟨⟨ha, hv⟩, hr⟩ := h
  obtain ⟨h1, h2, h3, h4, h5, h6, h7, h8, h9, -, h11, h12⟩ := Ctx.clearGroup_keeps group c
  exact ⟨⟨ha.of_eq h1 h2 h3 h4 h5 h6 h7 h8, hv.of_eq h1 h9⟩, hr.of_eq h1 h2 h3 h4 h5 h6 (Ctx.applicableHold_congr h11 h12)⟩

/-- A cell taken from the queue: a DRAINING flow's last one leaves NONE (R42, R85). -/
theorem Ctx.sound.taken {e : Entry} {c : Ctx} {b : Buffer} {rest : List Buffer} (h : c.sound e)
    (hq : c.queue = b :: rest) (saturated : Bool) : (c.taken rest saturated).sound e := by
  obtain ⟨⟨ha, hv⟩, hr⟩ := h
  have same : c.state ≠ .draining → (c.taken rest saturated).state = c.state := fun hne => by simp [Ctx.taken, hne]
  cases he : e.valid with
  | true =>
    rw [he] at hv
    have hne : c.state ≠ .draining := fun hd => by
      obtain h | h | h : c.state = .unseeded ∨ c.state = .seeding ∨ c.state = .running := hv <;> simp [h] at hd
    exact ⟨⟨ha.of_eq (same hne) rfl rfl rfl rfl rfl rfl rfl, by
      rw [he]
      simpa [Ctx.stateAgrees, same hne] using hv⟩,
      hr.of_eq (same hne) rfl rfl rfl rfl rfl (Ctx.applicableHold_congr rfl rfl)⟩
  | false =>
    rw [he] at hv
    have hd : c.state = .draining := by
      obtain ⟨-, h⟩ | ⟨h, -⟩ : c.state = .none ∧ c.queue = [] ∨ c.state = .draining ∧ c.queue ≠ [] := hv
      · simp [hq] at h
      · exact h
    have hnew : (c.taken rest saturated).state = if rest = [] then .none else .draining := by
      cases rest <;> simp [Ctx.taken, hd]
    have hh : c.held = [] := Classical.byContradiction fun e => by
      obtain e | e := ha.alive e <;> simp [hd] at e
    have hst : c.seedingStamp = none := by simpa [hd] using ha.stamp
    have hgap : c.gapDeadline = none := by simpa [hd] using ha.gap
    have hdl : c.seedingDeadline = none := by simpa [hd] using ha.deadline
    have hidle : (c.taken rest saturated).state ≠ .seeding ∧ (c.taken rest saturated).state ≠ .running := by
      rw [hnew]
      split <;> simp
    refine ⟨⟨⟨ha.ordered, fun hne => absurd hh hne, by simp [Ctx.taken, hgap], ?_, by simp [Ctx.taken, hdl], ha.history,
      ha.runs, fun _ => ha.idle (by simp [hd])⟩, ?_⟩, Ctx.atRest_idle hidle.1 hidle.2⟩
    · simp only [hidle.1, iff_false]
      simp [Ctx.taken, hst]
    · rw [he]
      by_cases hrest : rest = []
      · exact .inl ⟨by rw [hnew, if_pos hrest], hrest⟩
      · exact .inr ⟨by rw [hnew, if_neg hrest], hrest⟩

end Sys2Proof.Machine
end

section
/-! PROOFS. The contexts of the whole part: what each operation makes of the flows' laws, that the agent's turns end with
context M settled, and the law over a step (R2, R24, R31, R46 to R48). -/

namespace Sys2Proof.Machine

open Sys2Proof

/-! ## The flows -/

/-- The 128 flow contexts are sound under their ACTIVE entries. -/
def State.flowsSound (s : State) : Prop := s.flows.length = 128 ∧ ∀ n : Index, (s.flow n).sound (s.entry n)

section
variable {s t : State} {n : Index} {c : Ctx}

theorem State.flowsSound_of_eq (h : s.flowsSound) (hf : t.flows = s.flows)
    (ht : t.tables.active = s.tables.active) : t.flowsSound := by
  have flow : ∀ n, t.flow n = s.flow n := State.flow_of_flows hf
  have entry : ∀ n, t.entry n = s.entry n := fun n => congrArg (Bank.entry · n) ht
  refine ⟨by rw [hf]; exact h.1, fun n => ?_⟩
  rw [flow, entry]
  exact h.2 n

theorem State.flowsSound_onlyAlarms (h : s.flowsSound) (ha : s.onlyAlarms t) : t.flowsSound := by
  obtain ⟨e, -, -⟩ := ha
  rw [e]
  exact State.flowsSound_of_eq h rfl rfl

theorem State.flowsSound_setFlow (h : s.flowsSound) (hc : c.sound (s.entry n)) : (s.setFlow n c).flowsSound := by
  refine ⟨by simp [h.1], fun k => ?_⟩
  show ((s.setFlow n c).flow k).sound (s.entry k)
  by_cases hk : k = n
  · subst hk
    rw [State.flow_setFlow_self h.1]
    exact hc
  · rw [State.flow_setFlow_ne hk]
    exact h.2 k

theorem State.flowsSound_settleFlow (h : s.flowsSound) (hc : c.ready (s.entry n)) : (s.settleFlow n c).flowsSound := by
  refine ⟨by rw [State.settleFlow_flows_length, h.1], fun k => ?_⟩
  rw [State.settleFlow_entry]
  by_cases hk : k = n
  · subst hk
    rw [State.flow_settleFlow_self h.1]
    exact Ctx.settle_sound hc _
  · rw [State.flow_settleFlow_ne hk]
    exact h.2 k

theorem State.flowsSound_reportFlows (h : s.flowsSound) : s.reportFlows.flowsSound :=
  State.flowsSound_onlyAlarms h (State.reportFlows_onlyAlarms s)

theorem State.flowsSound_changeFlow {f : Ctx → Ctx} (h : s.flowsSound) (hf : (f (s.flow n)).ready (s.entry n)) :
    (s.changeFlow n f).flowsSound :=
  State.flowsSound_reportFlows (State.flowsSound_settleFlow h hf)

theorem Ctx.sound.markAbsent_ready {e : Entry} (h : c.sound e) (p : Path) : (c.markAbsent p).ready e :=
  ⟨h.1.1.markAbsent p, h.1.2.of_eq (by simp [Ctx.markAbsent]) (by simp [Ctx.markAbsent])⟩

theorem State.flowsSound_pathAbsent (h : s.flowsSound) (p : Path) : (s.pathAbsent p).flowsSound :=
  State.flowsSound_reportFlows (State.forFlows_induct (P := State.flowsSound)
    (fun n _ ht => State.flowsSound_settleFlow ht ((ht.2 n).markAbsent_ready p)) _ (State.flowsSound_of_eq h rfl rfl))

theorem State.flowsSound_retimeAll (h : s.flowsSound) : s.retimeAll.flowsSound :=
  State.flowsSound_reportFlows (State.forFlows_induct (P := State.flowsSound)
    (fun n _ ht => State.flowsSound_settleFlow ht ⟨(ht.2 n).1.1.retime _ _, (ht.2 n).1.2.of_eq rfl rfl⟩) _
    (State.flowsSound_of_eq h rfl rfl))

theorem State.flowsSound_writeSettings (h : s.flowsSound) (u : Settings) : (s.writeSettings u).flowsSound := by
  have hu : (s.withSettings u).flowsSound := State.flowsSound_of_eq h rfl rfl
  obtain ⟨-, e⟩ | ⟨-, e⟩ := State.writeSettings_cases u s <;> rw [e]
  · exact hu
  · exact State.flowsSound_retimeAll hu

theorem State.flowsSound_flushFlow (h : s.flowsSound) (hv : (s.entry n).valid = true) : (s.flushFlow n).flowsSound := by
  have hr : (s.setFlow n (s.flow n).resetFlow).flowsSound := State.flowsSound_setFlow h (Ctx.resetFlow_sound hv)
  exact State.flowsSound_reportFlows (State.flowsSound_of_eq hr (by simp) (by simp))

theorem State.flowsSound_fresh (hf : s.flows = s.tables.active.freshFlows) : s.flowsSound := by
  refine ⟨by rw [hf, Bank.freshFlows_length], fun n => ?_⟩
  rw [Bank.freshFlows_flow hf]
  exact Ctx.restart_sound _

theorem State.markArrival_ready {p : Params} {e : Entry} {free : Nat} {b : Buffer} {j : Judged} {c : Ctx}
    (hj : Ctx.JudgedAs p free b c j) (hp : p = Params.ofEntry e) (h : c.sound e) : (s.markArrival b j).ready e := by
  subst hp
  obtain ⟨h0, h1⟩ := e.window.size_bounds
  have hc : j.ctx.ready e := ⟨hj.able h.1.1 h0 (Nat.lt_of_le_of_lt h1 (by decide)), hj.stateAgrees h.1.2⟩
  obtain e' | ⟨r, e'⟩ := State.markArrival_cases b j s <;> rw [e']
  · exact hc
  · exact ⟨hc.1.setPres _ _, hc.2.of_eq (by simp) (by simp)⟩

theorem State.flowsSound_arriveFlow (h : s.flowsSound) (n : Index) (b : Buffer) : (s.arriveFlow n b).flowsSound := by
  have hj := Ctx.judge_judgedAs (Params.ofEntry (s.entry n)) s.tables.settings.skewTicks s.pool.free b (s.flow n)
  generalize hr : Ctx.judge _ _ _ b (s.flow n) = j at hj
  have hl : ((s.moveBuffers j).latchAll j.events).flowsSound := State.flowsSound_of_eq h (by simp) (by simp)
  have he : ((s.moveBuffers j).latchAll j.events).entry n = s.entry n := by simp [State.entry]
  show (State.reportFlows _).flowsSound
  rw [hr]
  exact State.flowsSound_reportFlows (State.flowsSound_settleFlow hl (by
    rw [he]
    exact State.markArrival_ready hj rfl (h.2 n)))

/-! ## Commits -/

@[simp] theorem State.moveRing_flows (n : Index) (old new : Fin 8) (s : State) : (s.moveRing n old new).flows = s.flows := by
  unfold State.moveRing
  split <;> simp

theorem State.commitReleaseFlow_flows (old : Entry) (n : Index) (s : State) :
    (s.commitReleaseFlow old n).flows = s.flows.set n.val ((s.flow n).commitRelease old).1 := by
  unfold State.commitReleaseFlow
  dsimp only
  split <;> simp [State.putFlow_flows]

/-- A list of contexts in which only that of index `n` was written. -/
theorem State.flow_of_set (hl : s.flows.length = 128) (hf : t.flows = s.flows.set n.val c) :
    t.flow n = c ∧ ∀ k, k ≠ n → t.flow k = s.flow k := by
  have e : ∀ k, t.flow k = (s.setFlow n c).flow k := State.flow_of_flows hf
  exact ⟨(e n).trans (State.flow_setFlow_self hl n c), fun k hk => (e k).trans (State.flow_setFlow_ne hk c s)⟩

theorem State.commitTurnsValid_flows (new : Entry) (n : Index) (s : State) :
    (s.commitTurnsValid new n).flows = s.flows.set n.val ((s.flow n).newFlow new.cls) := by
  simp [State.commitTurnsValid]

/-- The three changes of the fields write this one context (R144 to R146). -/
theorem State.commitFields_flows (hl : s.flows.length = 128) (old new : Entry) (n : Index) :
    (s.commitFields old new n).flows = s.flows.set n.val ((s.flow n).commitFields old new) := by
  have hs : s.flows = s.flows.set n.val (s.flow n) := (congrArg State.flows (State.setFlow_same n s)).symm
  have hw : (s.commitWindow old new n).flows = s.flows.set n.val
      (if new.window.size < old.window.size then (s.flow n).shrinkWindow new.window.size else s.flow n) := by
    unfold State.commitWindow
    split
    · simp
    · exact hs
  have hp : ((s.commitWindow old new n).commitPolicy old new n).flows = s.flows.set n.val
      (if old.hold = new.hold ∧ old.loneHold = new.loneHold ∧ old.policy = new.policy then
          (if new.window.size < old.window.size then (s.flow n).shrinkWindow new.window.size else s.flow n)
        else Ctx.takePolicy new.policy
          (if new.window.size < old.window.size then (s.flow n).shrinkWindow new.window.size else s.flow n)) := by
    unfold State.commitPolicy
    split
    · exact hw
    · rw [State.setFlow_flows, (State.flow_of_set hl hw).1, hw, List.set_set]
  unfold State.commitFields State.commitClass Ctx.commitFields
  dsimp only
  split
  · exact hp
  · rw [State.moveRing_flows, State.setFlow_flows, (State.flow_of_set hl hp).1, hp, List.set_set]

/-- A commit writes the context of its index, as the two entries there say (R139). -/
theorem State.commitIndex_flows (hl : s.flows.length = 128) (oldBank : Bank) (n : Index) :
    (s.commitIndex oldBank n).flows
      = s.flows.set n.val ((s.flow n).committed (oldBank.entry n) (s.entry n) s.timeBase) := by
  have hs : s.flows = s.flows.set n.val (s.flow n) := (congrArg State.flows (State.setFlow_same n s)).symm
  have released : (s.commitReleaseFlow (oldBank.entry n) n).flow n = ((s.flow n).commitRelease (oldBank.entry n)).1 :=
    (State.flow_of_set hl (State.commitReleaseFlow_flows _ n s)).1
  obtain ⟨ho, hn, e⟩ | ⟨ho, hn, e⟩ | ⟨ho, hn, e⟩ | ⟨ho, hn, hi, e⟩ | ⟨ho, hn, hi, e⟩ :=
    State.commitIndex_cases oldBank n s <;> rw [e] <;> simp only [Ctx.committed, ho, hn]
  · exact hs
  · exact State.commitTurnsValid_flows _ n s
  · simp only [State.commitTurnsInvalid, State.setFlow_flows, released, State.commitReleaseFlow_flows, List.set_set]
  · rw [State.commitSameLabel_eq, if_pos hi]
    split
    · exact hs
    · have hf := State.commitFields_flows hl (oldBank.entry n) (s.entry n) n
      obtain ⟨-, -, htime, -, -, -, -, -, htab, -⟩ :=
        State.onlyMerge_keeps (State.commitFields_onlyMerge (oldBank.entry n) (s.entry n) n s)
      rw [State.settleFlow_flows, (State.flow_of_set hl hf).1, hf, List.set_set, State.entry, htab, htime]
      rfl
  · rw [if_neg hi, State.commitRelabels, State.commitTurnsValid_flows, released, State.commitReleaseFlow_flows,
      List.set_set]

/-- A completed commit leaves each context as its two entries say (R138, R139). -/
theorem State.flow_commitContexts (hl : s.flows.length = 128) (n : Index) :
    s.commitContexts.flow n = (s.flow n).committed (s.entry n) (s.tables.pendingBank.entry n) s.timeBase := by
  have hI : ∀ (k : Index) (t : State), (t.flows.length = 128 ∧ t.tables = s.commitTables.tables ∧ t.timeBase = s.timeBase) →
      (t.commitIndex s.tables.active k).flows.length = 128 ∧
        (t.commitIndex s.tables.active k).tables = s.commitTables.tables ∧
        (t.commitIndex s.tables.active k).timeBase = s.timeBase := by
    rintro k t ⟨h1, h2, h3⟩
    obtain ⟨-, -, htime, -, -, -, -, -, htab, -⟩ := State.onlyMerge_keeps (State.commitIndex_onlyMerge s.tables.active k t)
    exact ⟨by rw [State.commitIndex_flows h1, List.length_set, h1], htab.trans h2, htime.trans h3⟩
  have each := State.forFlows_each (f := State.commitIndex s.tables.active)
    (g := fun k c => c.committed (s.entry k) (s.tables.pendingBank.entry k) s.timeBase) hI
    (fun k t ⟨h1, h2, h3⟩ => by
      rw [(State.flow_of_set h1 (State.commitIndex_flows h1 _ k)).1, State.entry, h2, h3]
      rfl)
    (fun k j t ⟨h1, _, _⟩ hj => (State.flow_of_set h1 (State.commitIndex_flows h1 _ k)).2 j hj)
    s.commitTables ⟨hl, rfl, rfl⟩ n
  exact (State.flow_of_flows (by simp [State.commitContexts]) n).trans each

theorem State.commitContexts_length (hl : s.flows.length = 128) : s.commitContexts.flows.length = 128 := by
  have h : (s.commitTables.forFlows (State.commitIndex s.tables.active)).flows.length = 128 :=
    State.forFlows_induct (P := fun t => t.flows.length = 128)
      (fun n t h1 => by rw [State.commitIndex_flows h1, List.length_set, h1]) s.commitTables hl
  simpa [State.commitContexts] using h

theorem State.flowsSound_commitContexts (h : s.flowsSound) : s.commitContexts.flowsSound := by
  refine ⟨State.commitContexts_length h.1, fun n => ?_⟩
  obtain ⟨-, -, -, -, -, -, -, -, htab, -⟩ := State.onlyMerge_keeps (State.commitContexts_onlyMerge s)
  rw [State.flow_commitContexts h.1, State.entry, htab]
  exact Ctx.committed_sound (h.2 n) _

theorem State.commitIndex_m (oldBank : Bank) (n : Index) (s : State) : (s.commitIndex oldBank n).m = s.m := by
  have fields : ∀ old new : Entry, (s.commitFields old new n).m = s.m := fun old new => by
    unfold State.commitFields State.commitClass State.commitPolicy State.commitWindow State.moveRing
    (repeat' split) <;> simp
  have released : ∀ old : Entry, (s.commitReleaseFlow old n).m = s.m := fun old => by
    unfold State.commitReleaseFlow
    dsimp only
    split <;> simp
  have turns : ∀ (t : State) (new : Entry), (t.commitTurnsValid new n).m = t.m := fun t new => by
    unfold State.commitTurnsValid State.moveRing
    split <;> simp
  obtain ⟨-, -, e⟩ | ⟨-, -, e⟩ | ⟨-, -, e⟩ | ⟨-, -, -, e⟩ | ⟨-, -, -, e⟩ := State.commitIndex_cases oldBank n s <;> rw [e]
  · exact turns _ _
  · exact released _
  · rw [State.commitSameLabel_eq]
    split
    · rfl
    · simpa using fields _ _
  · exact (turns _ _).trans (released _)

@[simp] theorem State.commitContexts_m (s : State) : s.commitContexts.m = s.m := by
  have h : (s.commitTables.forFlows (State.commitIndex s.tables.active)).m = s.m :=
    State.forFlows_induct (P := fun t => t.m = s.m) (fun n t ht => (State.commitIndex_m _ n t).trans ht) s.commitTables rfl
  simpa [State.commitContexts] using h

end

end Sys2Proof.Machine
end

section
/-! PROOFS. Context M, the agent's turns, and the law of the contexts over a step (R46 to R48, R57, R154). -/

namespace Sys2Proof.Machine

open Sys2Proof

/-- The law of context M while it may still have to settle: no queue, class 0 (R46, R48). -/
structure State.mReady (s : State) : Prop where
  able : s.m.able s.mParams
  agrees : s.m.stateAgrees true
  queue : s.m.queue = []
  cls : s.m.servingClass = 0

/-- The law of the contexts, context M perhaps still to settle. -/
def State.contextsReady (s : State) : Prop := s.flowsSound ∧ s.mReady

theorem State.contextsLaw_iff (s : State) : s.contextsLaw ↔ s.contextsReady ∧ s.m.atRest s.mParams := by
  have flows : (∀ n : Index, (s.flow n).lawful (Params.ofEntry (s.entry n)) ∧
      (s.flow n).settled (Params.ofEntry (s.entry n)) s.timeBase ∧ (s.flow n).stateAgrees (s.entry n).valid) ↔
      ∀ n : Index, (s.flow n).sound (s.entry n) := forall_congr' fun n => (Ctx.sound_iff _ s.timeBase _).symm
  unfold State.contextsLaw
  rw [flows, Ctx.settled_iff]
  constructor
  · rintro ⟨h1, h2, h3, h4, h5, h6, h7⟩
    exact ⟨⟨⟨h1, h2⟩, h3.able, h5, h6, h7⟩, h4⟩
  · rintro ⟨⟨⟨h1, h2⟩, h3, h5, h6, h7⟩, h4⟩
    exact ⟨h1, h2, h3.lawful h4, h4, h5, h6, h7⟩

/-- The window of context M does not follow the Settings (R46). -/
theorem Ctx.able.ofSettings {c : Ctx} {u : Settings} (h : c.able (Params.ofSettings u)) (u' : Settings) :
    c.able (Params.ofSettings u') := h.congr rfl

section
variable {s t : State}

theorem State.mReady_of_eq (h : s.mReady) (hm : t.m = s.m) : t.mReady := by
  obtain ⟨h1, h2, h3, h4⟩ := h
  exact ⟨by rw [hm]; exact h1.ofSettings _, by rw [hm]; exact h2, by rw [hm]; exact h3, by rw [hm]; exact h4⟩

/-- A change of context M that leaves its queue and class. -/
theorem State.mReady_of_m (h : s.mReady) (ha : t.m.able s.mParams) (hv : t.m.stateAgrees true)
    (hq : s.m.sameQueue t.m) : t.mReady :=
  ⟨ha.ofSettings _, hv, hq.1.trans h.queue, hq.2.trans h.cls⟩

theorem State.mReady_fresh (hm : s.m = Ctx.fresh .unseeded 0) : s.mReady :=
  ⟨by rw [hm]; exact Ctx.fresh_able _ (by simp) 0 [], by rw [hm]; exact .inl rfl, by rw [hm]; rfl, by rw [hm]; rfl⟩

theorem State.contextsReady_of_eq (h : s.contextsReady) (hf : t.flows = s.flows)
    (ht : t.tables.active = s.tables.active) (hm : t.m = s.m) : t.contextsReady :=
  ⟨State.flowsSound_of_eq h.1 hf ht, State.mReady_of_eq h.2 hm⟩

theorem State.contextsLaw_of_eq (h : s.contextsLaw) (hf : t.flows = s.flows) (ht : t.tables = s.tables)
    (hm : t.m = s.m) : t.contextsLaw := by
  rw [State.contextsLaw_iff] at h ⊢
  refine ⟨State.contextsReady_of_eq h.1 hf (by rw [ht]) hm, ?_⟩
  rw [hm, State.mParams, ht]
  exact h.2

theorem State.contextsLaw_onlyAlarms (h : s.contextsLaw) (ha : s.onlyAlarms t) : t.contextsLaw := by
  obtain ⟨e, -, -⟩ := ha
  rw [e]
  exact State.contextsLaw_of_eq h rfl rfl rfl

theorem State.contextsReady_onlyAlarms (h : s.contextsReady) (ha : s.onlyAlarms t) : t.contextsReady := by
  obtain ⟨e, -, -⟩ := ha
  rw [e]
  exact State.contextsReady_of_eq h rfl rfl rfl

/-- Context M's hold is the same whatever its presence (R55). -/
theorem Ctx.applicableHold_m (u : Settings) (c : Ctx) :
    c.applicableHold (Params.ofSettings u) = u.managementHold.toNat * Config.ticksPerMicro :=
  Ctx.applicableHold_lone (p := Params.ofSettings u) rfl c

theorem Ctx.atRest.setPres_m {u : Settings} {c : Ctx} (h : c.atRest (Params.ofSettings u)) (q : Path) (r : Presence) :
    (c.setPres q r).atRest (Params.ofSettings u) :=
  h.of_eq (by simp) (by simp) (by simp) (by simp) (by simp) (by simp) (by simp [Ctx.applicableHold_m])

/-- Only the flows changed, or context M's presence too. -/
theorem State.contextsLaw_of_flowsSound (h : s.contextsLaw) (hf : t.flowsSound)
    (hm : t.m = s.m ∨ ∃ q r, t.m = s.m.setPres q r) (hu : t.tables.settings = s.tables.settings) : t.contextsLaw := by
  rw [State.contextsLaw_iff] at h ⊢
  obtain ⟨⟨-, hM⟩, hrest⟩ := h
  obtain e | ⟨q, r, e⟩ := hm
  · refine ⟨⟨hf, State.mReady_of_eq hM e⟩, ?_⟩
    rw [e, State.mParams, hu]
    exact hrest
  · refine ⟨⟨hf, State.mReady_of_m hM (by rw [e]; exact hM.able.setPres q r)
      (by rw [e]; exact hM.agrees.of_eq (by simp) (by simp)) (by simp [e, Ctx.sameQueue])⟩, ?_⟩
    rw [e, State.mParams, hu]
    exact hrest.setPres_m q r

/-! ## The agent's turns -/

/-- What a settling of context M leaves: its law, nothing to do, and its held records released from the lowest. -/
theorem State.settleM_rests (h : s.mReady) :
    s.settleM.2.mReady ∧ s.settleM.2.m.atRest s.settleM.2.mParams ∧
      s.settleM.2.m.held.length + s.settleM.1.length = s.m.held.length := by
  obtain ⟨h1, h2, h3⟩ := Ctx.settleRun_lawful (now := s.timeBase) s.m.settleFuel h.able h.agrees s.m.actsLeft_le
  obtain ⟨run, hr⟩ := Ctx.settleRun_emptied s.mParams s.timeBase s.m.settleFuel s.m
  have hm : s.settleM.2.m = (s.m.settleRun s.mParams s.timeBase s.m.settleFuel).ctx := by simp
  have hp : s.settleM.2.mParams = s.mParams := by simp [State.mParams]
  refine ⟨State.mReady_of_m h (by rw [hm]; exact h1) (by rw [hm]; exact h3)
    (by rw [hm]; exact ⟨hr.queue, hr.servingClass⟩), by rw [hm, hp]; exact h2, ?_⟩
  have hrel : s.settleM.1.length = run.length := by
    have hreleased : s.settleM.1 = (s.m.settleRun s.mParams s.timeBase s.m.settleFuel).released := rfl
    rw [hreleased, hr.released, List.length_map]
  rw [hm, hrel, hr.held, List.length_append, Nat.add_comm]

theorem State.contextsReady_settleM (h : s.contextsReady) : s.settleM.2.contextsReady :=
  ⟨State.flowsSound_of_eq h.1 (by simp) (by simp), (State.settleM_rests h.2).1⟩

theorem State.retimeAll_m (s : State) : s.retimeAll.m = s.m.retime s.tables.settings.timeoutTicks s.timeBase := by
  have h := State.forFlows_induct (P := fun t => t.m = s.m.retime s.tables.settings.timeoutTicks s.timeBase)
    (f := fun n t => t.settleFlow n ((t.flow n).retime s.tables.settings.timeoutTicks t.timeBase))
    (fun n t ht => by simpa using ht) { s with m := s.m.retime s.tables.settings.timeoutTicks s.timeBase } rfl
  simpa [State.retimeAll] using h

theorem State.writeSettings_m (u : Settings) (s : State) :
    (s.writeSettings u).m = s.m ∨ ∃ timeout, (s.writeSettings u).m = s.m.retime timeout s.timeBase := by
  obtain ⟨-, e⟩ | ⟨-, e⟩ := State.writeSettings_cases u s <;> rw [e]
  · exact .inl rfl
  · exact .inr ⟨_, State.retimeAll_m _⟩

/-- What the execution of a command can make of context M's record (R52, R166, R200). -/
theorem Executed.m_cases {c : Command} (he : Executed c s t) :
    t.m = s.m ∨ (∃ group, t.m = s.m.clearGroup group) ∨ (∃ timeout, t.m = s.m.retime timeout s.timeBase) ∨
      t.m = Ctx.fresh .unseeded 0 := by
  cases he with
  | answered | lowWater | deviceCleared | alarmsCleared | pendingWritten | committed | straysCleared | saved | loadEmpty
  | restartQueued => exact .inl rfl
  | cleared i group =>
    cases i with
    | flow n => exact .inl rfl
    | m => exact .inr (.inl ⟨group, rfl⟩)
  | settingsWritten u =>
    obtain e | ⟨timeout, e⟩ := State.writeSettings_m u s
    · exact .inl e
    · exact .inr (.inr (.inl ⟨timeout, e⟩))
  | imageLoaded slot image =>
    obtain e | ⟨timeout, e⟩ := State.writeSettings_m image.settings
      (State.writePending image.bank { s with store := s.store.consult })
    · exact .inl e
    · exact .inr (.inr (.inl ⟨timeout, e⟩))
  | flushed n => exact .inl (State.flushFlow_keeps n s).2.1
  | restarted => exact .inr (.inr (.inr (by rw [State.trafficRestart_eq]; simp [State.answer, State.addPlace, State.restartedTraffic])))

theorem Executed.keeps_flowsSound {c : Command} (h : s.flowsSound) (he : Executed c s t) : t.flowsSound := by
  have answer : ∀ {u : State} (st : Status) (result : List Byte), u.flowsSound → (u.answer c st result).flowsSound :=
    fun _ _ hu => State.flowsSound_of_eq hu rfl rfl
  cases he with
  | answered | lowWater | deviceCleared | alarmsCleared | pendingWritten | committed | straysCleared | saved | loadEmpty
  | restartQueued => exact State.flowsSound_of_eq h rfl rfl
  | cleared i group =>
    refine answer _ _ ?_
    cases i with
    | flow n => exact State.flowsSound_setFlow h ((h.2 n).clearGroup group)
    | m => exact State.flowsSound_of_eq h rfl rfl
  | settingsWritten u => exact answer _ _ (State.flowsSound_writeSettings h u)
  | imageLoaded slot image =>
    have hp : (State.writePending image.bank { s with store := s.store.consult }).flowsSound :=
      State.flowsSound_of_eq h rfl rfl
    exact answer _ _ (State.flowsSound_writeSettings hp _)
  | flushed n valid => exact answer _ _ (State.flowsSound_flushFlow h valid)
  | restarted =>
    have hr : s.restartedTraffic.flowsSound := State.flowsSound_fresh rfl
    rw [State.trafficRestart_eq]
    exact answer _ _ (State.flowsSound_reportFlows (State.flowsSound_onlyAlarms hr (State.report_onlyAlarms _ _ _)))

/-- A command keeps the law of the contexts but for what context M then settles, and adds nothing to its held set. -/
theorem Executed.keeps_contextsReady {c : Command} (h : s.contextsReady) (he : Executed c s t) :
    t.contextsReady ∧ t.m.held.length ≤ s.m.held.length := by
  obtain ⟨hf, hM⟩ := h
  refine (fun ⟨hm, hl⟩ => ⟨⟨he.keeps_flowsSound hf, hm⟩, hl⟩) (show t.mReady ∧ t.m.held.length ≤ s.m.held.length from ?_)
  obtain e | ⟨group, e⟩ | ⟨timeout, e⟩ | e := he.m_cases
  · exact ⟨State.mReady_of_eq hM e, by rw [e]⟩
  · obtain ⟨h1, h2, h3, h4, h5, h6, h7, h8, h9, h10, -⟩ := Ctx.clearGroup_keeps group s.m
    exact ⟨State.mReady_of_m hM (by rw [e]; exact hM.able.of_eq h1 h2 h3 h4 h5 h6 h7 h8)
      (by rw [e]; exact hM.agrees.of_eq h1 h9) (by rw [e]; exact ⟨h9, h10⟩), by rw [e, h3]⟩
  · exact ⟨State.mReady_of_m hM (by rw [e]; exact hM.able.retime _ _) (by rw [e]; exact hM.agrees.of_eq rfl rfl)
      (by rw [e]; exact ⟨rfl, rfl⟩), by rw [e]; rfl⟩
  · exact ⟨State.mReady_fresh e, by rw [e]; exact Nat.zero_le _⟩

theorem State.deliver_commands (flags : Byte) (c : Command) (s : State) :
    (s.deliver flags c).agent.commands.length ≤ s.agent.commands.length + 1 := by
  unfold State.deliver
  split
  · unfold State.receiveCommand
    split <;> simp
  · exact Nat.le_succ _

theorem State.handOverCell_commands (b : Buffer) (s : State) :
    (s.handOverCell b).agent.commands.length ≤ s.agent.commands.length + 1 := by
  unfold State.handOverCell State.handOver
  split
  · have hc : (s.freeBuffers 1).agent.commands = s.agent.commands := by
      obtain ⟨-, -, -, -, -, -, -, -, -, -, -, -, -, -, hc, -⟩ := State.onlyMerge_keeps (State.freeBuffers_onlyMerge 1 s)
      exact hc
    exact hc ▸ State.deliver_commands _ _ _
  · exact State.deliver_commands _ _ _

theorem State.contextsReady_handOverCell (h : s.contextsReady) (b : Buffer) : (s.handOverCell b).contextsReady :=
  State.contextsReady_of_eq h (by simp) (by simp) (by simp)

/-- With turns enough for every held cell, waiting cell and queued command, the agent's settling ends with context M
settled: a turn executes a command or hands a cell over, and a cell may bring one command. -/
theorem State.settle_contextsLaw : ∀ (fuel : Nat) (waiting : List Buffer) {s : State}, s.contextsReady →
    2 * s.m.held.length + 2 * waiting.length + s.agent.commands.length + 1 ≤ fuel → (s.settle fuel waiting).contextsLaw
  | 0, _, _, _, hf => by omega
  | fuel + 1, waiting, s, h, hf => by
    obtain ⟨hM, hrest, hlen⟩ := State.settleM_rests h.2
    have hready := State.contextsReady_settleM h
    have hcmd : s.settleM.2.agent.commands = s.agent.commands := by
      obtain ⟨-, -, -, -, -, -, -, -, -, -, -, -, -, -, hc, -⟩ := State.onlyMerge_keeps (State.settleM_onlyMerge s)
      exact hc
    unfold State.settle
    dsimp only
    split
    · next hx =>
      cases hc : s.settleM.2.agent.commands with
      | nil => simp [Agent.canExecute, hc] at hx
      | cons c rest =>
        have he := runCommand_executed c { s.settleM.2 with agent := { s.settleM.2.agent with commands := rest } }
        have hx' : s.settleM.2.executeHead
            = runCommand c { s.settleM.2 with agent := { s.settleM.2.agent with commands := rest } } := by
          simp [State.executeHead, hc]
        rw [← hx'] at he
        obtain ⟨hk, hl⟩ := Executed.keeps_contextsReady
          (s := { s.settleM.2 with agent := { s.settleM.2.agent with commands := rest } })
          (State.contextsReady_of_eq hready rfl rfl rfl) he
        have hrest' : s.settleM.2.executeHead.agent.commands = rest := he.addsPlace.1
        have hcount : s.agent.commands.length = rest.length + 1 := by rw [← hcmd, hc]; rfl
        have hl' : s.settleM.2.executeHead.m.held.length ≤ s.settleM.2.m.held.length := hl
        refine State.settle_contextsLaw fuel _ hk ?_
        rw [hrest', List.length_append]
        omega
    · split
      · exact (State.contextsLaw_iff _).mpr ⟨hready, hrest⟩
      · next b rest hw =>
        have hb := State.handOverCell_commands b s.settleM.2
        have hm : (s.settleM.2.handOverCell b).m = s.settleM.2.m := by simp
        have hlw : waiting.length + s.settleM.1.length = rest.length + 1 := by
          have := congrArg List.length hw
          simpa using this
        refine State.settle_contextsLaw fuel rest (State.contextsReady_handOverCell hready b) ?_
        rw [hm]
        rw [hcmd] at hb
        omega

theorem State.contextsLaw_settleAgent (h : s.contextsReady) : s.settleAgent.contextsLaw :=
  State.settle_contextsLaw _ [] h (by simp [State.settleFuel])

theorem State.contextsLaw.ready (h : s.contextsLaw) : s.contextsReady := (s.contextsLaw_iff.mp h).1

theorem State.contextsLaw_deliverSettled (h : s.contextsLaw) (flags : Byte) (c : Command) :
    (s.deliver flags c).settleAgent.contextsLaw :=
  State.contextsLaw_settleAgent (State.contextsReady_of_eq h.ready (by simp) (by simp) (by simp))

/-- An arrival in context M, judged and marked, leaves it ready to settle (R47). -/
theorem State.contextsReady_judgedM (h : s.contextsReady) (b : Buffer) :
    State.contextsReady (let j := s.m.judge s.mParams s.tables.settings.skewTicks s.pool.free b
      { (s.moveBuffers j).latchAll j.events with m := s.markArrival b j }) := by
  have hj := Ctx.judge_judgedAs s.mParams s.tables.settings.skewTicks s.pool.free b s.m
  generalize hr : Ctx.judge _ _ _ b s.m = j at hj
  obtain ⟨hf, hM⟩ := h
  obtain ⟨hq, hc, -⟩ := hj.keeps
  have ha : j.ctx.able s.mParams := hj.able hM.able (by decide : 0 < Config.managementWindow) (by decide :
    Config.managementWindow < 65536)
  have hv := hj.stateAgrees hM.agrees
  have hm : ∀ u : State, u.tables = s.tables → u.flows = s.flows → u.m = s.markArrival b j → u.contextsReady := by
    intro u hut huf hum
    refine ⟨State.flowsSound_of_eq hf huf (by rw [hut]), ?_⟩
    obtain e | ⟨r, e⟩ := State.markArrival_cases b j s
    · exact State.mReady_of_m hM (by rw [hum, e]; exact ha) (by rw [hum, e]; exact hv) (by rw [hum, e]; exact ⟨hq, hc⟩)
    · exact State.mReady_of_m hM (by rw [hum, e]; exact ha.setPres _ _) (by rw [hum, e]; exact hv.of_eq (by simp) (by simp))
        (by rw [hum, e]; simp [Ctx.sameQueue, hq, hc])
  exact hm _ (by simp) (by simp) rfl

theorem State.contextsReady_arriveM (h : s.contextsReady) (b : Buffer) : (s.arriveM b).contextsLaw :=
  State.contextsLaw_settleAgent (State.contextsReady_judgedM h b)

/-- Context M, its seeding ended, is ready to settle (R30). -/
theorem State.contextsReady_endSeedingM (h : s.contextsReady) (hs : s.m.state = .seeding) :
    State.contextsReady { s with m := s.m.endSeeding } := by
  obtain ⟨hf, hM⟩ := h
  refine ⟨State.flowsSound_of_eq hf rfl rfl, State.mReady_of_m hM (hM.able.endSeeding hs) ?_ (Ctx.sameQueue_endSeeding _)⟩
  obtain ⟨e, -⟩ | ⟨e, -⟩ := s.m.endSeeding_state
  · exact .inl e
  · exact .inr (.inr e)

theorem Ctx.giveUpLowest_keeps (c : Ctx) :
    c.giveUpLowest.state = c.state ∧ c.giveUpLowest.queue = c.queue ∧ c.giveUpLowest.held = c.held := by
  unfold Ctx.giveUpLowest
  split <;> exact ⟨rfl, rfl, rfl⟩

/-- Context M, the gap below its lowest record given up, is ready to settle (R59). -/
theorem State.contextsReady_giveUpLowestM (h : s.contextsReady) :
    State.contextsReady { s.latch .loss with m := s.m.giveUpLowest } := by
  obtain ⟨hf, hM⟩ := State.contextsReady_onlyAlarms h (State.latch_onlyAlarms .loss s)
  obtain ⟨hs, hq, -⟩ := s.m.giveUpLowest_keeps
  exact ⟨State.flowsSound_of_eq hf rfl rfl, State.mReady_of_m h.2 h.2.able.giveUpLowest (h.2.agrees.of_eq hs hq)
    (Ctx.sameQueue_giveUpLowest _)⟩

theorem State.contextsLaw_takeDelivered (h : s.contextsLaw) (b : Option Buffer) : (State.takeDelivered b s).contextsLaw := by
  cases b with
  | none => exact h
  | some b =>
    rw [State.takeDelivered_some]
    obtain ⟨-, e⟩ | ⟨-, -, e⟩ | ⟨n, -, -, -, e⟩ | ⟨n, -, -, -, e⟩ := State.classify_cases b s <;> rw [e]
    · exact State.contextsReady_arriveM h.ready b
    · exact State.contextsLaw_of_eq h (by simp) (by simp) (by simp)
    · have hm : (s.arriveFlow n b).m = s.m := by simp [State.arriveFlow]
      obtain ⟨-, -, -, -, -, -, -, -, htab, -⟩ := State.onlyMerge_keeps (State.arriveFlow_onlyMerge n b s)
      exact State.contextsLaw_of_flowsSound h (State.flowsSound_arriveFlow h.ready.1 n b) (.inl hm) (by rw [htab])
    · exact State.contextsLaw_of_eq h (by simp) (by simp) (by simp)

/-! ## The effects -/

theorem State.pathAbsent_m (p : Path) (s : State) : (s.pathAbsent p).m = s.m.markAbsent p := by
  have h := State.forFlows_induct (P := fun t => t.m = s.m.markAbsent p)
    (f := fun n t => t.settleFlow n ((t.flow n).markAbsent p)) (fun n t ht => by simpa using ht)
    { s with m := s.m.markAbsent p } rfl
  simpa [State.pathAbsent] using h

theorem State.contextsLaw_leftUp (h : s.contextsLaw) (p : Path) : (s.leftUp p).contextsLaw := by
  have hr := State.contextsLaw_onlyAlarms h (State.report_onlyAlarms (linkKind p) true s)
  obtain ⟨-, -, -, -, -, -, -, -, htab, -⟩ := State.onlyMerge_keeps (State.pathAbsent_onlyMerge p
    (s.report (linkKind p) true))
  exact State.contextsLaw_of_flowsSound hr (State.flowsSound_pathAbsent hr.ready.1 p)
    (.inr ⟨p, _, State.pathAbsent_m p _⟩) (congrArg Tables.settings htab)

theorem State.contextsLaw_changeFlow {n : Index} {f : Ctx → Ctx} (h : s.contextsLaw)
    (hf : (f (s.flow n)).ready (s.entry n)) : (s.changeFlow n f).contextsLaw := by
  have hm : (s.changeFlow n f).m = s.m := by simp [State.changeFlow]
  obtain ⟨-, -, -, -, -, -, -, -, htab, -⟩ := State.onlyMerge_keeps (State.changeFlow_onlyMerge n f s)
  exact State.contextsLaw_of_flowsSound h (State.flowsSound_changeFlow h.ready.1 hf) (.inl hm) (by rw [htab])

theorem State.contextsLaw_roundBoundary (h : s.contextsLaw) : s.roundBoundary.contextsLaw := by
  obtain ⟨-, e⟩ | ⟨tag, -, e⟩ := State.roundBoundary_cases s <;> rw [e]
  · exact State.contextsLaw_of_eq h rfl rfl rfl
  · have hw : s.rewound.contextsLaw := State.contextsLaw_of_eq h rfl rfl rfl
    obtain ⟨-, -, -, -, -, -, -, -, htab, -⟩ := State.onlyMerge_keeps (State.commitContexts_onlyMerge s.rewound)
    have hc : s.rewound.commitContexts.contextsLaw := State.contextsLaw_of_flowsSound hw
      (State.flowsSound_commitContexts hw.ready.1) (.inl (by simp)) (by rw [htab]; rfl)
    exact State.contextsLaw_of_eq hc (by simp) (by simp) (by simp)

theorem State.contextsLaw_useSlot (h : s.contextsLaw) : s.useSlot.contextsLaw := by
  have hu : ({ s with sched := { s.sched with slotUsed := true } } : State).contextsLaw :=
    State.contextsLaw_of_eq h rfl rfl rfl
  obtain e | ⟨k, n, others, -, -, e⟩ | ⟨k, n, others, b, rest, -, hq, e⟩ := State.useSlot_cases s <;> rw [e]
  · exact State.contextsLaw_of_eq hu rfl rfl rfl
  · exact State.contextsLaw_of_eq hu rfl rfl rfl
  · have hf := State.flowsSound_setFlow hu.ready.1
      ((hu.ready.1.2 n).taken hq (saturates (s.entry n) s.timeBase b))
    exact State.contextsLaw_of_flowsSound hu (State.flowsSound_of_eq hf rfl rfl) (.inl rfl) rfl

theorem State.contextsLaw_lastByte (h : s.contextsLaw) (p : Path) (hd : Header) (payload check : List Byte) :
    (s.lastByte p hd payload check).2.contextsLaw := by
  obtain ⟨b, -, -, e⟩ | e := State.lastByte_cases p hd payload check s <;> rw [e]
  · exact State.contextsLaw_of_eq h (by simp) (by simp) (by simp)
  · exact State.contextsLaw_of_eq h (by simp) (by simp) (by simp)

/-- Fresh flows, and context M UNSEEDED, are lawful under every table (R49). -/
theorem State.contextsLaw_fresh (hf : s.flowsSound) (hm : s.m = Ctx.fresh .unseeded 0) : s.contextsLaw :=
  (State.contextsLaw_iff s).mpr ⟨⟨hf, State.mReady_fresh hm⟩, by
    rw [hm]
    exact Ctx.atRest_idle (by simp [Ctx.fresh]) (by simp [Ctx.fresh])⟩

theorem State.contextsLaw_reset : State.reset.contextsLaw := by
  refine State.contextsLaw_fresh ⟨by simp [State.reset], fun n => ?_⟩ rfl
  have he : State.reset.entry n = Entry.default := by
    show (List.replicate 128 Entry.default).getD n.val Entry.default = _
    rw [List.getD_eq_getElem?_getD, List.getElem?_replicate_of_lt n.isLt]
    rfl
  rw [State.flow_reset rfl, he]
  exact Ctx.restart_sound Entry.default

theorem State.contextsLaw_fullReset (phase : Phase) (s : State) : (s.fullReset phase).contextsLaw :=
  State.contextsLaw_of_eq State.contextsLaw_reset rfl rfl rfl

theorem State.contextsLaw_headers (h : s.contextsLaw) (hf : t.flows = s.flows) (ht : t.tables = s.tables)
    (hm : t.m = s.m) (p : Path) : t.contextsLaw ∧ (t.leftUp p).contextsLaw :=
  have ht' := State.contextsLaw_of_eq h hf ht hm
  ⟨ht', State.contextsLaw_leftUp ht' p⟩

theorem Ctx.seedingDue_state {c : Ctx} {p : Params} {now : Time} (h : c.seedingDue p now = true) : c.state = .seeding := by
  unfold Ctx.seedingDue at h
  split at h
  · assumption
  · cases h

theorem Effect.keeps_contextsLaw (quiet : s.quietUntilLoaded) (h : s.contextsLaw) (he : Effect s t) : t.contextsLaw := by
  obtain ⟨hf, hM⟩ := h.ready
  cases he with
  | still => exact h
  | powerUp => exact State.contextsLaw_of_eq (State.contextsLaw_fullReset .heldPower s) rfl rfl rfl
  | resetPin => exact State.contextsLaw_fullReset _ s
  | released | outSilent | outStarting | returnSilent | returnStarting | notified =>
    exact State.contextsLaw_of_eq h rfl rfl rfl
  | loaded starting =>
    have hq := (s.quietUntilLoaded_iff.mp quiet) (by rw [starting]; simp)
    have hl : s.loadedTables.contextsLaw := State.contextsLaw_fresh (State.flowsSound_fresh rfl) hq.m
    exact State.contextsLaw_onlyAlarms hl (State.loadInstant_onlyAlarms s)
  | detected | lost | found | hunted => exact State.contextsLaw_of_eq h (by simp) (by simp) (by simp)
  | lostUp p last =>
    refine State.contextsLaw_takeDelivered (State.contextsLaw_leftUp (State.contextsLaw_of_eq
      (s := (s.lastOrCut p last).2) ?_ (by simp) (by simp) (by simp)) p) _
    obtain ⟨-, e⟩ | ⟨hd, payload, check, -, -, e⟩ | ⟨hd, -, -, e⟩ := State.lastOrCut_cases p last s <;> rw [e]
    · exact h
    · exact State.contextsLaw_lastByte h p hd payload check
    · exact State.contextsLaw_of_eq h (by simp) (by simp) (by simp)
  | checked p header check =>
    obtain ⟨r, e, -⟩ | ⟨r, f, e, -⟩ := State.headerInCheck_cases header check <;> rw [e] <;>
      exact State.contextsLaw_of_eq h (by simp [State.judgeHeader_keeps]) (by simp [State.judgeHeader_keeps])
        (by simp [State.judgeHeader_keeps])
  | judged p header =>
    obtain ⟨r, e, -⟩ | ⟨r, r', e, -⟩ := State.headerInUp_cases p header s <;> rw [e]
    · exact State.contextsLaw_of_eq h (by simp [State.judgeHeader_keeps]) (by simp [State.judgeHeader_keeps])
        (by simp [State.judgeHeader_keeps])
    · exact (State.contextsLaw_headers h (by simp [State.judgeHeader_keeps]) (by simp [State.judgeHeader_keeps])
        (by simp [State.judgeHeader_keeps]) p).2
  | ended p hd payload check => exact State.contextsLaw_takeDelivered (State.contextsLaw_lastByte h p hd payload check) _
  | seeding i due =>
    have hs := Ctx.seedingDue_state due
    cases i with
    | flow n =>
      refine State.contextsLaw_changeFlow h ⟨(hf.2 n).1.1.endSeeding hs, Ctx.stateAgrees_alive (hf.2 n).1.2 (.inl hs) ?_⟩
      obtain ⟨e, -⟩ | ⟨e, -⟩ := (s.flow n).endSeeding_state <;> simp [e]
    | m => exact State.contextsLaw_settleAgent (State.contextsReady_endSeedingM h.ready hs)
  | gap i due =>
    have hl := State.contextsLaw_onlyAlarms h (State.latch_onlyAlarms .loss s)
    cases i with
    | flow n =>
      have hn := hl.ready.1.2 n
      obtain ⟨hs, hq, -⟩ := ((s.latch .loss).flow n).giveUpLowest_keeps
      exact State.contextsLaw_changeFlow hl ⟨hn.1.1.giveUpLowest, hn.1.2.of_eq hs hq⟩
    | m => exact State.contextsLaw_settleAgent (State.contextsReady_giveUpLowestM h.ready)
  | presence i p =>
    cases i with
    | flow n => exact State.contextsLaw_changeFlow h ((hf.2 n).markAbsent_ready p)
    | m => exact State.contextsLaw_of_flowsSound h (State.flowsSound_of_eq hf rfl rfl) (.inr ⟨p, _, rfl⟩) rfl
  | boundary => exact State.contextsLaw_roundBoundary h
  | outActive =>
    have hfree : s.freeSent.contextsLaw := State.contextsLaw_of_eq h (by simp) (by simp) (by simp)
    refine State.contextsLaw_useSlot ?_
    obtain ⟨-, e⟩ | ⟨-, -, e⟩ | ⟨-, e⟩ := State.advancePosition_cases s.freeSent <;> rw [e]
    · exact State.contextsLaw_roundBoundary hfree
    · exact State.contextsLaw_of_eq hfree rfl rfl rfl
    · exact hfree
  | returnActive addr =>
    obtain ⟨-, e⟩ | ⟨r, left, -, ⟨-, e⟩ | ⟨-, e⟩⟩ := State.returnTake_cases addr { s with addrPins := addr } <;> rw [e]
    · exact State.contextsLaw_of_eq h rfl rfl rfl
    · exact State.contextsLaw_of_eq (State.contextsLaw_fullReset .starting
        (State.sendReply r left { s with addrPins := addr })) rfl rfl rfl
    · exact State.contextsLaw_settleAgent (State.contextsReady_of_eq h.ready rfl rfl rfl)
  | written ok slot image =>
    exact State.contextsLaw_onlyAlarms (s := s.writeEnded ok slot image) (State.contextsLaw_of_eq h rfl rfl rfl)
      (State.endWrite_onlyAlarms ok slot image s)
  | command c => exact State.contextsLaw_deliverSettled h _ c

end

/-- Settles O57: each change of a record leaves it able, settling has acts enough to end, and the agent turns enough. -/
theorem contextsStayLawful : Obligations.ContextsStayLawful := by
  intro s t hq _ hs
  refine step_leads (P := fun u => u.quietUntilLoaded ∧ u.contextsLaw) (Q := State.contextsLaw) (fun _ _ hp => ?_) ?_
    (fun _ _ ⟨quiet, hp⟩ he => he.keeps_contextsLaw quiet hp) s t ⟨hq, hs⟩
  · exact ⟨hp.1, State.contextsLaw_of_eq hp.2 rfl rfl rfl⟩
  · rintro u d ⟨quiet, hp⟩
    exact ⟨State.quietUntilLoaded_advance quiet d, State.contextsLaw_of_eq hp (by simp) (by simp) (by simp)⟩

end Sys2Proof.Machine
end

section
/-! PROOFS. The buffers (R68 to R74): a count of the buffers that are away from both lists, what each operation does to it,
and that every step ends with none away. -/

namespace Sys2Proof.Machine

open Sys2Proof

/-! ## The tally -/

/-- The free buffers, those in use and `away` more add up to the 2,048, and the low-water mark is not above the free count:
inside a step, `away` counts the buffers that have left a context and are not yet on the free list. -/
structure State.tallies (away : Nat) (s : State) : Prop where
  size : s.flows.length = 128
  total : s.pool.free + s.buffersInUse + away = Config.poolSize
  mark : s.pool.lowWater ≤ s.pool.free

theorem State.tallies_iff (s : State) (hl : s.flows.length = 128) : s.tallies 0 ↔ s.buffersConserved :=
  ⟨fun h => ⟨h.total, h.mark⟩, fun h => ⟨hl, h.1, h.2⟩⟩

/-- Writing one context of a list changes the list's occupancy by what it changes its own. -/
theorem occupancies_set (c d : Ctx) : ∀ (flows : List Ctx) (n : Nat), n < flows.length →
    ((flows.set n c).map Ctx.occupancy).sum + (flows.getD n d).occupancy
      = (flows.map Ctx.occupancy).sum + c.occupancy
  | [], _, h => absurd h (Nat.not_lt_zero _)
  | x :: flows, 0, _ => by simp; omega
  | x :: flows, n + 1, h => by
    have ih := occupancies_set c d flows n (Nat.lt_of_succ_lt_succ h)
    simp only [List.set_cons_succ, List.map_cons, List.sum_cons, List.getD_cons_succ]
    omega

section
variable {s t : State} {n : Index} {c : Ctx} {a b : Nat}

theorem State.tallies_of_eq (h : s.tallies a) (hf : t.flows = s.flows) (hm : t.m.held.length = s.m.held.length)
    (ho : t.out.buffer = s.out.buffer) (hp : t.pool = s.pool) : t.tallies a := by
  obtain ⟨h1, h2, h3⟩ := h
  refine ⟨by rw [hf, h1], ?_, by rw [hp]; exact h3⟩
  unfold State.buffersInUse at h2 ⊢
  rw [hf, hm, ho, hp]
  exact h2

theorem State.tallies_onlyAlarms (h : s.tallies a) (ha : s.onlyAlarms t) : t.tallies a := by
  obtain ⟨e, -, -⟩ := ha
  exact State.tallies_of_eq h (by rw [e]) (by rw [e]) (by rw [e]) (by rw [e])

/-- Writing one flow context moves as many buffers as its occupancy changes. -/
theorem State.tallies_moved (h : s.tallies a) (hf : t.flows = s.flows.set n.val c) (hm : t.m = s.m) (ho : t.out = s.out)
    (hp : t.pool = s.pool) (hc : c.occupancy + b = (s.flow n).occupancy + a) : t.tallies b := by
  obtain ⟨h1, h2, h3⟩ := h
  refine ⟨by rw [hf, List.length_set, h1], ?_, by rw [hp]; exact h3⟩
  have hs : _ + (s.flow n).occupancy = _ :=
    occupancies_set c (Ctx.fresh .none 0) s.flows n.val (by rw [h1]; exact n.isLt)
  unfold State.buffersInUse at h2 ⊢
  rw [hf, hm, ho, hp]
  omega

/-- A context written with the occupancy it had moves no buffer. -/
theorem State.tallies_kept (h : s.tallies a) (hf : t.flows = s.flows.set n.val c) (hm : t.m = s.m) (ho : t.out = s.out)
    (hp : t.pool = s.pool) (hc : c.occupancy = (s.flow n).occupancy) : t.tallies a :=
  State.tallies_moved h hf hm ho hp (by rw [hc])

theorem State.tallies_setFlow (h : s.tallies a) (n : Index) (hc : c.occupancy = (s.flow n).occupancy) :
    (s.setFlow n c).tallies a :=
  State.tallies_kept h rfl rfl rfl rfl hc

/-- Context M is written: as many buffers move as its held set changes. -/
theorem State.tallies_m (h : s.tallies a) (hf : t.flows = s.flows) (ho : t.out = s.out) (hp : t.pool = s.pool)
    (hc : t.m.held.length + b = s.m.held.length + a) : t.tallies b := by
  obtain ⟨h1, h2, h3⟩ := h
  refine ⟨by rw [hf, h1], ?_, by rw [hp]; exact h3⟩
  unfold State.buffersInUse at h2 ⊢
  rw [hf, ho, hp]
  omega

theorem State.buffersInUse_of_eq (hf : t.flows = s.flows) (hm : t.m = s.m) (ho : t.out = s.out) :
    t.buffersInUse = s.buffersInUse := by
  unfold State.buffersInUse
  rw [hf, hm, ho]

theorem State.tallies_freeBuffers (h : s.tallies (a + b)) : (s.freeBuffers b).tallies a := by
  have hu := State.buffersInUse_of_eq (s := s) (t := s.freeBuffers b) (by simp) (by simp) (by simp)
  refine ⟨by simp [h.size], ?_, ?_⟩
  · rw [hu, State.freeBuffers_pool]
    have := h.total
    dsimp only
    omega
  · rw [State.freeBuffers_pool]
    exact Nat.le_trans h.mark (Nat.le_add_right _ _)

theorem State.tallies_empty (hf : ∀ x ∈ s.flows, x.occupancy = 0) (hl : s.flows.length = 128) (hm : s.m.held = [])
    (ho : s.out.buffer = none) (hp : s.pool = { free := Config.poolSize, lowWater := Config.poolSize }) : s.tallies 0 := by
  have hz : (s.flows.map Ctx.occupancy).sum = 0 := by
    rw [List.sum_eq_zero_iff]
    intro k hk
    obtain ⟨x, hx, e⟩ := List.mem_map.mp hk
    exact e ▸ hf x hx
  refine ⟨hl, ?_, by rw [hp]⟩
  unfold State.buffersInUse
  rw [hz, hm, ho, hp]
  rfl

/-! ## Contexts -/

theorem Ctx.Released.occupancy {e : Entry} {run : List HeldRec} {c d : Ctx} (h : Ctx.Released e run c d) :
    d.occupancy = c.occupancy := by
  have hq := congrArg List.length h.queue
  have hh := congrArg List.length h.held
  simp only [List.length_map, List.length_append] at hq hh
  unfold Ctx.occupancy
  omega

theorem Ctx.settle_occupancy (e : Entry) (now : Time) (c : Ctx) : (Ctx.settle e now c).1.occupancy = c.occupancy := by
  obtain ⟨run, h⟩ := Ctx.settle_released e now c
  exact h.occupancy

theorem Ctx.occupancy_of_eq {c d : Ctx} (hh : d.held.length = c.held.length) (hq : d.queue = c.queue) :
    d.occupancy = c.occupancy := by
  unfold Ctx.occupancy
  rw [hh, hq]

theorem State.tallies_settleFlow (h : s.tallies a) (hc : c.occupancy + b = (s.flow n).occupancy + a) :
    (s.settleFlow n c).tallies b :=
  State.tallies_moved h (State.settleFlow_flows n c s) (by simp) (by simp) (by simp)
    (by rw [Ctx.settle_occupancy]; exact hc)

theorem State.tallies_reportFlows (h : s.tallies a) : s.reportFlows.tallies a :=
  State.tallies_onlyAlarms h (State.reportFlows_onlyAlarms s)

theorem State.tallies_changeFlow (h : s.tallies a) {f : Ctx → Ctx} (hc : (f (s.flow n)).occupancy = (s.flow n).occupancy) :
    (s.changeFlow n f).tallies a :=
  State.tallies_reportFlows (State.tallies_settleFlow h (by rw [hc]))

theorem State.tallies_pathAbsent (h : s.tallies a) (p : Path) : (s.pathAbsent p).tallies a :=
  State.tallies_reportFlows (State.forFlows_induct (P := State.tallies a)
    (fun n t ht => State.tallies_settleFlow ht
      (by rw [Ctx.occupancy_of_eq (c := t.flow n) (by simp [Ctx.markAbsent]) (by simp [Ctx.markAbsent])])) _
    (State.tallies_of_eq h rfl (by simp [Ctx.markAbsent]) rfl rfl))

theorem State.tallies_leftUp (h : s.tallies a) (p : Path) : (s.leftUp p).tallies a :=
  State.tallies_pathAbsent (State.tallies_onlyAlarms h (State.report_onlyAlarms _ _ s)) p

theorem State.tallies_retimeAll (h : s.tallies a) : s.retimeAll.tallies a :=
  State.tallies_reportFlows (State.forFlows_induct (P := State.tallies a)
    (fun n t ht => State.tallies_settleFlow ht (by rw [Ctx.occupancy_of_eq (c := t.flow n) (d := (t.flow n).retime _ _) rfl rfl])) _
    (State.tallies_of_eq h rfl rfl rfl rfl))

theorem State.tallies_writeSettings (h : s.tallies a) (u : Settings) : (s.writeSettings u).tallies a := by
  have hu : (s.withSettings u).tallies a := State.tallies_of_eq h rfl rfl rfl rfl
  obtain ⟨-, e⟩ | ⟨-, e⟩ := State.writeSettings_cases u s <;> rw [e]
  · exact hu
  · exact State.tallies_retimeAll hu

theorem State.tallies_flushFlow (h : s.tallies a) (n : Index) : (s.flushFlow n).tallies a := by
  refine State.tallies_reportFlows (State.tallies_freeBuffers (State.tallies_moved (n := n) h rfl rfl rfl rfl ?_))
  simp [Ctx.occupancy, Ctx.resetFlow, Ctx.flushHeld]
  omega

/-! ## Arrivals -/

/-- What judging an arrival moves: the flushed records leave the context, an accepted cell joins it with a buffer that was
free (R35, R70, R73). -/
theorem Ctx.JudgedAs.buffers {p : Params} {free : Nat} {b : Buffer} {c : Ctx} {j : Judged} (h : Ctx.JudgedAs p free b c j)
    (hc : c.state = .unseeded → c.held = []) :
    j.ctx.held.length + j.flushed = c.held.length + (if j.disp = .accepted then 1 else 0) ∧
      (j.disp = .accepted → free + j.flushed ≠ 0) := by
  have refused : ∀ {d : Disposition}, d.marks = false → d ≠ .accepted := by rintro d hd rfl; cases hd
  cases h with
  | counted d k runs idle => simp [refused idle]
  | compared k skew held history events alive seen =>
    obtain rfl | rfl := seen <;> simp [markHeldSeen]
  | held alive inside new room buffer => simpa [Ctx.hold, insertHeld_length] using buffer
  | seeded unseeded room buffer => simpa [Ctx.seed, hc unseeded] using buffer
  | resyncRefused running d k idle => simp [refused idle, Ctx.resyncEmptied, Ctx.flushHeld]
  | resyncSeeded running buffer => exact ⟨by simp [Ctx.seed]; omega, fun _ => buffer⟩

theorem State.moveBuffers_free {j : Judged} (hm : s.pool.lowWater ≤ s.pool.free)
    (hf : j.disp = .accepted → s.pool.free + j.flushed ≠ 0) :
    (s.moveBuffers j).pool.free + (if j.disp = .accepted then 1 else 0) = s.pool.free + j.flushed ∧
      (s.moveBuffers j).pool.lowWater ≤ (s.moveBuffers j).pool.free := by
  unfold State.moveBuffers
  split
  · next ha =>
    have := hf ha
    simp only [State.allocBuffer_pool, State.freeBuffers_pool]
    omega
  · simp only [State.freeBuffers_pool]
    omega

/-- A context is written and the pool with it, free and occupied together staying what they were. -/
theorem State.tallies_exchanged (h : s.tallies a) (hf : t.flows = s.flows.set n.val c) (hm : t.m = s.m) (ho : t.out = s.out)
    (hp : t.pool.free + c.occupancy = s.pool.free + (s.flow n).occupancy) (hw : t.pool.lowWater ≤ t.pool.free) :
    t.tallies a := by
  refine ⟨by rw [hf, List.length_set, h.size], ?_, hw⟩
  have hs : _ + (s.flow n).occupancy = _ :=
    occupancies_set c (Ctx.fresh .none 0) s.flows n.val (by rw [h.size]; exact n.isLt)
  have := h.total
  unfold State.buffersInUse at this ⊢
  rw [hf, hm, ho]
  omega

theorem State.markArrival_held (b : Buffer) (j : Judged) (s : State) :
    (s.markArrival b j).held = j.ctx.held ∧ (s.markArrival b j).queue = j.ctx.queue := by
  obtain e | ⟨r, e⟩ := State.markArrival_cases b j s <;> rw [e]
  · exact ⟨rfl, rfl⟩
  · simp

theorem Ctx.able.unseeded {p : Params} {c : Ctx} (h : c.able p) (hs : c.state = .unseeded) : c.held = [] := by
  by_contra hh
  obtain e | e := h.alive hh <;> simp [hs] at e

theorem State.tallies_arriveFlow (h : s.tallies 0) (hs : s.flowsSound) (n : Index) (b : Buffer) :
    (s.arriveFlow n b).tallies 0 := by
  have hj := Ctx.judge_judgedAs (Params.ofEntry (s.entry n)) s.tables.settings.skewTicks s.pool.free b (s.flow n)
  generalize hr : Ctx.judge _ _ _ b (s.flow n) = j at hj
  obtain ⟨hb, hf⟩ := hj.buffers (fun e => (hs.2 n).1.1.unseeded e)
  obtain ⟨hp, hw⟩ := State.moveBuffers_free h.mark hf
  obtain ⟨hh, hq⟩ := State.markArrival_held b j s
  show (State.reportFlows _).tallies 0
  rw [hr]
  refine State.tallies_reportFlows (State.tallies_exchanged (n := n) h (c := (Ctx.settle ((s.moveBuffers j).latchAll j.events
    |>.entry n) ((s.moveBuffers j).latchAll j.events).timeBase (s.markArrival b j)).1) (by rw [State.settleFlow_flows]; simp) (by simp) (by simp) ?_ (by simpa using hw))
  rw [Ctx.settle_occupancy]
  have hl : ((s.moveBuffers j).latchAll j.events).pool = (s.moveBuffers j).pool := by simp
  simp only [State.settleFlow_keeps, hl, Ctx.occupancy, hh, hq, hj.keeps.1]
  omega

/-! ## Commits -/

theorem Ctx.commitRelease_occupancy (e : Entry) (c : Ctx) : (c.commitRelease e).1.occupancy = c.occupancy :=
  (Ctx.commitRelease_released e c).1.occupancy

theorem State.tallies_commitReleaseFlow (h : s.tallies a) (old : Entry) (n : Index) :
    (s.commitReleaseFlow old n).tallies a := by
  have hp : (s.putFlow n ((s.flow n).commitRelease old).1).tallies a :=
    State.tallies_kept h (State.putFlow_flows n _ s) (by simp) (by simp) (by simp) (Ctx.commitRelease_occupancy old _)
  unfold State.commitReleaseFlow
  dsimp only
  split
  · exact State.tallies_onlyAlarms hp (State.latch_onlyAlarms _ _)
  · exact hp

theorem State.tallies_moveRing (h : s.tallies a) (n : Index) (old new : Fin 8) : (s.moveRing n old new).tallies a := by
  unfold State.moveRing
  split
  · exact h
  · exact State.tallies_of_eq h rfl rfl rfl rfl

/-- A context that holds nothing loses none to the flow that takes its place (R140, R143). -/
theorem State.tallies_commitTurnsValid (h : s.tallies a) (new : Entry) (n : Index) (hh : (s.flow n).held = []) :
    (s.commitTurnsValid new n).tallies a :=
  State.tallies_moveRing (State.tallies_setFlow (c := (s.flow n).newFlow new.cls) h n
    (Ctx.occupancy_of_eq (by rw [hh]; rfl) rfl)) _ _ _

/-- A smaller window frees as many buffers as it takes from the held set (R144). -/
theorem State.tallies_commitWindow (h : s.tallies a) (old new : Entry) (n : Index) :
    (s.commitWindow old new n).tallies a := by
  unfold State.commitWindow
  split
  · refine State.tallies_freeBuffers (State.tallies_moved (n := n) h rfl rfl rfl rfl ?_)
    have hl := List.length_eq_length_filter_add (l := (s.flow n).held)
      (fun r => decide (seqDist (s.flow n).nes r.buffer.cell.seq < new.window.size))
    simp only [← decide_not, Nat.not_lt] at hl
    simp only [Ctx.occupancy, Ctx.shrinkWindow, Ctx.beyond]
    omega
  · exact h

theorem State.tallies_commitFields (h : s.tallies a) (old new : Entry) (n : Index) :
    (s.commitFields old new n).tallies a := by
  have hw := State.tallies_commitWindow h old new n
  have hp : ((s.commitWindow old new n).commitPolicy old new n).tallies a := by
    unfold State.commitPolicy
    split
    · exact hw
    · exact State.tallies_kept (n := n) hw rfl rfl rfl rfl (Ctx.occupancy_of_eq rfl rfl)
  unfold State.commitFields State.commitClass
  split
  · exact hp
  · refine State.tallies_moveRing (State.tallies_setFlow hp n ?_) _ _ _
    exact Ctx.occupancy_of_eq rfl rfl

theorem State.tallies_commitIndex (h : s.tallies a) (oldBank : Bank) (n : Index) (hs : (s.flow n).sound (oldBank.entry n)) :
    (s.commitIndex oldBank n).tallies a := by
  obtain ⟨ho, -, e⟩ | ⟨ho, -, e⟩ | ⟨-, -, e⟩ | ⟨-, -, -, e⟩ | ⟨-, -, -, e⟩ := State.commitIndex_cases oldBank n s <;> rw [e]
  · exact h
  · refine State.tallies_commitTurnsValid h _ n ?_
    obtain ⟨h1, h2⟩ := Ctx.stateAgrees_invalid (ho ▸ hs.1.2)
    by_contra hh
    exact (hs.1.1.alive hh).elim h1 h2
  · exact State.tallies_kept (n := n) (State.tallies_commitReleaseFlow h _ n) rfl rfl rfl rfl
      (Ctx.occupancy_of_eq rfl rfl)
  · rw [State.commitSameLabel_eq]
    split
    · exact h
    · exact State.tallies_settleFlow (State.tallies_commitFields h _ _ n) rfl
  · refine State.tallies_commitTurnsValid (State.tallies_commitReleaseFlow h _ n) _ n ?_
    rw [(State.flow_of_set h.size (State.commitReleaseFlow_flows _ n s)).1]
    exact (Ctx.commitRelease_released _ _).2

/-- Going over every flow, each change finds its own context as it stood at the start. -/
theorem State.forFlows_untouched {I : State → Prop} {f : Index → State → State} (s : State) (hs : I s)
    (hI : ∀ n t, I t → t.flow n = s.flow n → I (f n t))
    (hne : ∀ n k t, I t → k ≠ n → (f n t).flow k = t.flow k) : I (s.forFlows f) := by
  have key : ∀ (l : List Index) (t : State), l.Nodup → I t → (∀ k ∈ l, t.flow k = s.flow k) →
      I (l.foldl (fun t k => f k t) t) := by
    intro l
    induction l with
    | nil => exact fun t _ ht _ => ht
    | cons k l ih =>
      intro t hd ht hf
      obtain ⟨hk, hd⟩ := List.nodup_cons.mp hd
      refine ih (f k t) hd (hI k t ht (hf k List.mem_cons_self)) (fun j hj => ?_)
      rw [hne k j t ht (fun e => hk (e ▸ hj)), hf j (List.mem_cons_of_mem _ hj)]
  exact key _ s (List.nodup_finRange 128) hs (fun _ _ => rfl)

theorem State.tallies_commitContexts (h : s.tallies a) (hs : s.flowsSound) : s.commitContexts.tallies a := by
  refine State.tallies_reportFlows (State.forFlows_untouched (I := State.tallies a) s.commitTables
    (State.tallies_of_eq h rfl rfl rfl rfl) (fun n t ht e => State.tallies_commitIndex ht _ n ?_)
    (fun n k t ht hk => (State.flow_of_set ht.size (State.commitIndex_flows ht.size _ n)).2 k hk))
  rw [e]
  exact hs.2 n

theorem State.tallies_roundBoundary (h : s.tallies a) (hs : s.flowsSound) : s.roundBoundary.tallies a := by
  obtain ⟨-, e⟩ | ⟨tag, -, e⟩ := State.roundBoundary_cases s <;> rw [e]
  · exact State.tallies_of_eq h rfl rfl rfl rfl
  · have hr : s.rewound.tallies a := State.tallies_of_eq h rfl rfl rfl rfl
    exact State.tallies_of_eq (State.tallies_commitContexts hr (State.flowsSound_of_eq hs rfl rfl)) (by simp) (by simp)
      (by simp) (by simp)

end

end Sys2Proof.Machine
end

section
/-! PROOFS. The buffers while the agent settles: each cell context M released holds its buffer until it is handed over, and a
traffic restart between two hand-overs has returned them all (R47, R80, R200). -/

namespace Sys2Proof.Machine

open Sys2Proof

/-- `waiting` cells that context M has released still have their buffers to return, or a traffic restart has returned every
buffer and nothing is in use. -/
def State.owes (waiting : Nat) (s : State) : Prop :=
  s.tallies waiting ∨ s.tallies 0 ∧ s.pool.free = Config.poolSize

section
variable {s t : State} {a : Nat}

/-- With every buffer free none is in use. -/
theorem State.tallies.idle (h : s.tallies 0) (hf : s.pool.free = Config.poolSize) : s.m.held = [] := by
  have := h.total
  unfold State.buffersInUse at this
  exact List.length_eq_zero_iff.mp (by omega)

theorem State.retimeAll_pool (s : State) : s.retimeAll.pool = s.pool := by
  have h := State.forFlows_induct (P := fun t => t.pool = s.pool)
    (f := fun n t => t.settleFlow n ((t.flow n).retime s.tables.settings.timeoutTicks t.timeBase))
    (fun n t ht => by simpa using ht) { s with m := s.m.retime s.tables.settings.timeoutTicks s.timeBase } rfl
  simpa [State.retimeAll] using h

theorem State.writeSettings_pool (u : Settings) (s : State) : (s.writeSettings u).pool = s.pool := by
  obtain ⟨-, e⟩ | ⟨-, e⟩ := State.writeSettings_cases u s <;> rw [e]
  · rfl
  · exact State.retimeAll_pool _

theorem State.tallies_restarted (s : State) : s.restartedTraffic.tallies 0 :=
  State.tallies_empty (fun x hx => by
    obtain ⟨n, -, rfl⟩ := List.mem_map.mp hx
    rfl) (Bank.freshFlows_length _) rfl rfl rfl

/-- A command keeps the tally and takes no buffer, or is a traffic restart (R44, R200). -/
theorem Executed.keeps_tallies {c : Command} (h : s.tallies a) (he : Executed c s t) :
    t.tallies a ∧ s.pool.free ≤ t.pool.free ∨ t.tallies 0 ∧ t.pool.free = Config.poolSize := by
  cases he with
  | answered | deviceCleared | alarmsCleared | pendingWritten | committed | straysCleared | saved | loadEmpty
  | restartQueued => exact .inl ⟨State.tallies_of_eq h rfl rfl rfl rfl, Nat.le_refl _⟩
  | lowWater => exact .inl ⟨⟨h.size, h.total, Nat.le_refl _⟩, Nat.le_refl _⟩
  | cleared i group =>
    refine .inl ?_
    obtain ⟨-, -, hh, -, -, -, -, -, hq, -⟩ := Ctx.clearGroup_keeps group (s.ctx i)
    cases i with
    | flow n =>
      exact ⟨State.tallies_of_eq (State.tallies_setFlow h n (Ctx.occupancy_of_eq (congrArg List.length hh) hq))
        rfl rfl rfl rfl, Nat.le_refl _⟩
    | m => exact ⟨State.tallies_of_eq h rfl (congrArg List.length hh) rfl rfl, Nat.le_refl _⟩
  | settingsWritten u =>
    have hw := State.tallies_writeSettings h u
    have hp : (s.writeSettings u).pool = s.pool := State.writeSettings_pool u s
    exact .inl ⟨State.tallies_of_eq hw rfl rfl rfl rfl, Nat.le_of_eq (congrArg Pool.free hp).symm⟩
  | imageLoaded slot image =>
    have hi : (State.writePending image.bank { s with store := s.store.consult }).tallies a :=
      State.tallies_of_eq h rfl rfl rfl rfl
    have hw := State.tallies_writeSettings hi image.settings
    have hp := State.writeSettings_pool image.settings (State.writePending image.bank { s with store := s.store.consult })
    exact .inl ⟨State.tallies_of_eq hw rfl rfl rfl rfl, Nat.le_of_eq (congrArg Pool.free hp).symm⟩
  | flushed n =>
    refine .inl ⟨State.tallies_of_eq (State.tallies_flushFlow h n) rfl rfl rfl rfl, ?_⟩
    show s.pool.free ≤ (s.flushFlow n).pool.free
    simp [State.flushFlow]
  | restarted =>
    have hr := State.tallies_reportFlows (State.tallies_onlyAlarms (State.tallies_restarted s)
      (State.report_onlyAlarms .poolEmpty false _))
    rw [← State.trafficRestart_eq] at hr
    refine .inr ⟨State.tallies_of_eq hr rfl rfl rfl rfl, ?_⟩
    show s.trafficRestart.pool.free = _
    rw [State.trafficRestart_eq]
    simp [State.restartedTraffic]

theorem Executed.keeps_owes {c : Command} (h : s.owes a) (he : Executed c s t) : t.owes a := by
  obtain h | ⟨h, hf⟩ := h
  · obtain ⟨ht, -⟩ | ht := he.keeps_tallies h
    · exact .inl ht
    · exact .inr ht
  · obtain ⟨ht, hle⟩ | ht := he.keeps_tallies h
    · have := ht.total
      exact .inr ⟨ht, by omega⟩
    · exact .inr ht

/-- Context M settling moves what it releases from its held set to the waiting cells. -/
theorem State.owes_settleM (h : s.owes a) (hM : s.mReady) : s.settleM.2.owes (a + s.settleM.1.length) := by
  obtain ⟨-, -, hl⟩ := State.settleM_rests hM
  obtain h | ⟨h, hf⟩ := h
  · exact .inl (State.tallies_m h (by simp) (by simp) (by simp) (by omega))
  · have hh := h.idle hf
    refine .inr ⟨State.tallies_m h (by simp) (by simp) (by simp) (b := 0) ?_, by simp [hf]⟩
    rw [hh, List.length_nil] at hl ⊢
    omega

theorem State.owes_handOverCell (h : s.owes (a + 1)) (b : Buffer) : (s.handOverCell b).owes a := by
  have handed : ∀ {u : State} {k : Nat}, u.tallies k → (u.handOver b.cell.payload).tallies k := fun hu =>
    State.tallies_of_eq hu (by simp) (by simp) (by simp) (by simp)
  unfold State.handOverCell
  obtain h | ⟨h, hf⟩ := h
  · have hlt : s.pool.free < Config.poolSize := by have := h.total; omega
    rw [if_pos hlt]
    exact .inl (handed (State.tallies_freeBuffers h))
  · rw [if_neg (by omega)]
    exact .inr ⟨handed h, by simp [hf]⟩

/-- A command executed at the head leaves the queue's rest, context M ready with no more held, and the tally kept. -/
theorem State.executeHead_ready (h : s.contextsReady) (hx : s.agent.canExecute = true) (ho : s.owes a) :
    s.agent.commands.length = s.executeHead.agent.commands.length + 1 ∧ s.executeHead.contextsReady ∧
      s.executeHead.m.held.length ≤ s.m.held.length ∧ s.executeHead.owes a := by
  cases hc : s.agent.commands with
  | nil => simp [Agent.canExecute, hc] at hx
  | cons c rest =>
    have he := runCommand_executed c { s with agent := { s.agent with commands := rest } }
    have hx' : s.executeHead = runCommand c { s with agent := { s.agent with commands := rest } } := by
      simp [State.executeHead, hc]
    rw [← hx'] at he
    have ho' : State.owes a { s with agent := { s.agent with commands := rest } } := by
      obtain ho | ⟨ho, hf⟩ := ho
      · exact .inl (State.tallies_of_eq ho rfl rfl rfl rfl)
      · exact .inr ⟨State.tallies_of_eq ho rfl rfl rfl rfl, hf⟩
    obtain ⟨hk, hl⟩ := Executed.keeps_contextsReady (s := { s with agent := { s.agent with commands := rest } })
      (State.contextsReady_of_eq h rfl rfl rfl) he
    have hrest : s.executeHead.agent.commands = rest := he.addsPlace.1
    exact ⟨by rw [hrest]; rfl, hk, hl, he.keeps_owes ho'⟩

/-- With turns enough, the agent's settling ends with every waiting cell handed over and its buffer back. -/
theorem State.settle_tallies : ∀ (fuel : Nat) (waiting : List Buffer) {s : State}, s.contextsReady →
    2 * s.m.held.length + 2 * waiting.length + s.agent.commands.length + 1 ≤ fuel → s.owes waiting.length →
    (s.settle fuel waiting).tallies 0
  | 0, _, _, _, hf, _ => by omega
  | fuel + 1, waiting, s, h, hf, ho => by
    obtain ⟨hM, hrest, hlen⟩ := State.settleM_rests h.2
    have hready := State.contextsReady_settleM h
    have howes := State.owes_settleM ho h.2
    obtain ⟨-, -, -, -, -, -, -, -, -, -, -, -, -, -, hcmd, -⟩ := State.onlyMerge_keeps (State.settleM_onlyMerge s)
    unfold State.settle
    dsimp only
    split
    · next hx =>
      obtain ⟨hc, hk, hl, hxo⟩ := State.executeHead_ready hready hx howes
      rw [hcmd] at hc
      refine State.settle_tallies fuel _ hk ?_ (by rwa [List.length_append])
      rw [List.length_append]
      omega
    · split
      · next hw =>
        have hz := congrArg List.length hw
        rw [List.length_append] at hz
        rw [hz] at howes
        exact howes.elim id And.left
      · next b rest hw =>
        have hb := State.handOverCell_commands b s.settleM.2
        have hm : (s.settleM.2.handOverCell b).m = s.settleM.2.m := by simp
        have hlw := congrArg List.length hw
        rw [List.length_append, List.length_cons] at hlw
        refine State.settle_tallies fuel rest (State.contextsReady_handOverCell hready b) ?_
          (State.owes_handOverCell (hlw ▸ howes) b)
        rw [hm]
        rw [hcmd] at hb
        omega

/-! ## The effects -/

theorem State.tallies_settleAgent (hr : s.contextsReady) (h : s.tallies 0) : s.settleAgent.tallies 0 :=
  State.settle_tallies _ [] hr (by simp [State.settleFuel]) (.inl h)

theorem State.tallies_arriveM (h : s.tallies 0) (hr : s.contextsReady) (b : Buffer) : (s.arriveM b).tallies 0 := by
  have hj := Ctx.judge_judgedAs s.mParams s.tables.settings.skewTicks s.pool.free b s.m
  have hready := State.contextsReady_judgedM hr b
  generalize hd : Ctx.judge _ _ _ b s.m = j at hj hready
  obtain ⟨hb, hf⟩ := hj.buffers (fun e => hr.2.able.unseeded e)
  obtain ⟨hp, hw⟩ := State.moveBuffers_free h.mark hf
  unfold State.arriveM
  rw [hd]
  refine State.tallies_settleAgent hready ⟨by simp [h.size], ?_, by simpa using hw⟩
  have ht := h.total
  unfold State.buffersInUse at ht ⊢
  have hf' : ((s.moveBuffers j).latchAll j.events).flows = s.flows := by simp
  have ho : ((s.moveBuffers j).latchAll j.events).out = s.out := by simp
  have hp' : ((s.moveBuffers j).latchAll j.events).pool = (s.moveBuffers j).pool := by simp
  simp only [hf', ho, hp', (State.markArrival_held b j s).1]
  omega

theorem State.tallies_takeDelivered (h : s.tallies 0) (hr : s.contextsReady) (b : Option Buffer) :
    (State.takeDelivered b s).tallies 0 := by
  cases b with
  | none => exact h
  | some b =>
    rw [State.takeDelivered_some]
    obtain ⟨-, e⟩ | ⟨-, -, e⟩ | ⟨n, -, -, -, e⟩ | ⟨n, -, -, -, e⟩ := State.classify_cases b s <;> rw [e]
    · exact State.tallies_arriveM h hr b
    · exact State.tallies_of_eq h (by simp) (by simp) (by simp) (by simp)
    · exact State.tallies_arriveFlow h hr.1 n b
    · exact State.tallies_of_eq h (by simp) (by simp) (by simp) (by simp)

theorem State.tallies_lastByte (h : s.tallies a) (p : Path) (hd : Header) (payload check : List Byte) :
    (s.lastByte p hd payload check).2.tallies a := by
  obtain ⟨b, -, -, e⟩ | e := State.lastByte_cases p hd payload check s <;> rw [e] <;>
    exact State.tallies_of_eq h (by simp) (by simp) (by simp) (by simp)

/-- The end of a cell time returns the buffer of the cell sent (R74). -/
theorem State.tallies_freeSent (h : s.tallies 0) : s.freeSent.tallies 0 ∧ s.freeSent.out.buffer = none := by
  unfold State.freeSent
  split
  · next b hb =>
    have ht : State.tallies 1 { s with out := { s.out with buffer := none } } := by
      refine ⟨h.size, ?_, h.mark⟩
      have := h.total
      unfold State.buffersInUse at this ⊢
      rw [hb] at this
      exact this
    exact ⟨State.tallies_freeBuffers ht, by simp⟩
  · exact ⟨h, ‹_›⟩

/-- A served cell leaves its queue for the transmitter (R92). -/
theorem State.tallies_useSlot (h : s.tallies 0) (ho : s.out.buffer = none) : s.useSlot.tallies 0 := by
  obtain e | ⟨k, n, others, -, -, e⟩ | ⟨k, n, others, b, rest, -, hq, e⟩ := State.useSlot_cases s <;> rw [e]
  · exact State.tallies_of_eq h rfl rfl ho.symm rfl
  · exact State.tallies_of_eq h rfl rfl ho.symm rfl
  · have hs : (s.setFlow n ((s.flow n).taken rest (saturates (s.entry n) s.timeBase b))).tallies 1 := by
      refine State.tallies_moved (n := n) h rfl rfl rfl rfl ?_
      have hq' : (s.flow n).queue = b :: rest := hq
      simp [Ctx.occupancy, Ctx.taken, hq']
      omega
    refine ⟨hs.size, ?_, hs.mark⟩
    have := hs.total
    unfold State.buffersInUse at this ⊢
    have hn : (s.setFlow n ((s.flow n).taken rest (saturates (s.entry n) s.timeBase b))).out.buffer = none := ho
    rw [hn] at this
    exact this

theorem State.tallies_reset : State.reset.tallies 0 :=
  State.tallies_empty (fun x hx => by rw [List.eq_of_mem_replicate hx]; rfl) (List.length_replicate ..) rfl rfl rfl

theorem State.tallies_fullReset (phase : Phase) (s : State) : (s.fullReset phase).tallies 0 :=
  State.tallies_of_eq State.tallies_reset rfl rfl rfl rfl

theorem Effect.keeps_tallies (quiet : s.quietUntilLoaded) (hc : s.contextsLaw) (h : s.tallies 0) (he : Effect s t) :
    t.tallies 0 := by
  have hr := hc.ready
  cases he with
  | still => exact h
  | powerUp => exact State.tallies_of_eq (State.tallies_fullReset .heldPower s) rfl rfl rfl rfl
  | resetPin => exact State.tallies_fullReset _ s
  | released | outSilent | returnSilent | returnStarting | notified => exact State.tallies_of_eq h rfl rfl rfl rfl
  | outStarting starting =>
    have hq := (s.quietUntilLoaded_iff.mp quiet) (by rw [starting]; simp)
    exact State.tallies_of_eq h rfl rfl hq.out.symm rfl
  | loaded starting =>
    have hq := (s.quietUntilLoaded_iff.mp quiet) (by rw [starting]; simp)
    have hl : s.loadedTables.tallies 0 := State.tallies_empty (fun x hx => by
      obtain ⟨n, -, rfl⟩ := List.mem_map.mp hx
      rfl) (Bank.freshFlows_length _) (congrArg Ctx.held hq.m) hq.out hq.pool
    exact State.tallies_onlyAlarms hl (State.loadInstant_onlyAlarms s)
  | detected | lost | found | hunted => exact State.tallies_of_eq h (by simp) (by simp) (by simp) (by simp)
  | lostUp p last =>
    have hk : (s.lastOrCut p last).2.tallies 0 ∧ (s.lastOrCut p last).2.contextsLaw := by
      obtain ⟨-, e⟩ | ⟨hd, payload, check, -, -, e⟩ | ⟨hd, -, -, e⟩ := State.lastOrCut_cases p last s <;> rw [e]
      · exact ⟨h, hc⟩
      · exact ⟨State.tallies_lastByte h p hd payload check, State.contextsLaw_lastByte hc p hd payload check⟩
      · exact ⟨State.tallies_of_eq h (by simp) (by simp) (by simp) (by simp),
          State.contextsLaw_of_eq hc (by simp) (by simp) (by simp)⟩
    have ht := State.tallies_leftUp (State.tallies_of_eq hk.1 (t := (s.lastOrCut p last).2.setRx p (Receiver.down false))
      (by simp) (by simp) (by simp) (by simp)) p
    have hl := State.contextsLaw_leftUp (State.contextsLaw_of_eq hk.2
      (t := (s.lastOrCut p last).2.setRx p (Receiver.down false)) (by simp) (by simp) (by simp)) p
    exact State.tallies_takeDelivered ht hl.ready _
  | checked p header check =>
    obtain ⟨r, e, -⟩ | ⟨r, f, e, -⟩ := State.headerInCheck_cases header check <;> rw [e] <;>
      exact State.tallies_of_eq h (by simp [State.judgeHeader_keeps]) (by simp [State.judgeHeader_keeps])
        (by simp [State.judgeHeader_keeps]) (by simp [State.judgeHeader_keeps])
  | judged p header =>
    obtain ⟨r, e, -⟩ | ⟨r, r', e, -⟩ := State.headerInUp_cases p header s <;> rw [e]
    · exact State.tallies_of_eq h (by simp [State.judgeHeader_keeps]) (by simp [State.judgeHeader_keeps])
        (by simp [State.judgeHeader_keeps]) (by simp [State.judgeHeader_keeps])
    · exact State.tallies_leftUp (State.tallies_of_eq h (by simp [State.judgeHeader_keeps])
        (by simp [State.judgeHeader_keeps]) (by simp [State.judgeHeader_keeps]) (by simp [State.judgeHeader_keeps])) p
  | ended p hd payload check =>
    exact State.tallies_takeDelivered (State.tallies_lastByte h p hd payload check)
      (State.contextsLaw_lastByte hc p hd payload check).ready _
  | seeding i due =>
    cases i with
    | flow n => exact State.tallies_changeFlow h (Ctx.occupancy_of_eq (by simp) (by simp))
    | m =>
      exact State.tallies_settleAgent (State.contextsReady_endSeedingM hr (Ctx.seedingDue_state due))
        (State.tallies_of_eq h rfl (by simp) rfl rfl)
  | gap i due =>
    have hl := State.tallies_onlyAlarms h (State.latch_onlyAlarms .loss s)
    cases i with
    | flow n =>
      obtain ⟨-, hq, hh⟩ := ((s.latch .loss).flow n).giveUpLowest_keeps
      exact State.tallies_changeFlow hl (Ctx.occupancy_of_eq (by rw [hh]) hq)
    | m =>
      exact State.tallies_settleAgent (State.contextsReady_giveUpLowestM hr)
        (State.tallies_of_eq hl rfl (by simp [Ctx.giveUpLowest_keeps]) rfl rfl)
  | presence i p =>
    cases i with
    | flow n => exact State.tallies_changeFlow h (Ctx.occupancy_of_eq (by simp [Ctx.markAbsent]) (by simp [Ctx.markAbsent]))
    | m => exact State.tallies_of_eq h rfl (by simp [State.expirePresence, Ctx.markAbsent]) rfl rfl
  | boundary => exact State.tallies_roundBoundary h hr.1
  | outActive =>
    obtain ⟨hf, ho⟩ := State.tallies_freeSent h
    refine State.tallies_useSlot ?_ (by simpa using ho)
    obtain ⟨-, e⟩ | ⟨-, -, e⟩ | ⟨-, e⟩ := State.advancePosition_cases s.freeSent <;> rw [e]
    · exact State.tallies_roundBoundary hf (State.flowsSound_of_eq hr.1 (by simp) (by simp))
    · exact State.tallies_of_eq hf rfl rfl rfl rfl
    · exact hf
  | returnActive addr =>
    obtain ⟨-, e⟩ | ⟨r, left, -, ⟨-, e⟩ | ⟨-, e⟩⟩ := State.returnTake_cases addr { s with addrPins := addr } <;> rw [e]
    · exact State.tallies_of_eq h rfl rfl rfl rfl
    · exact State.tallies_of_eq (State.tallies_fullReset .starting
        (State.sendReply r left { s with addrPins := addr })) rfl rfl rfl rfl
    · exact State.tallies_settleAgent (State.contextsReady_of_eq hr rfl rfl rfl) (State.tallies_of_eq h rfl rfl rfl rfl)
  | written ok slot image =>
    exact State.tallies_onlyAlarms (s := s.writeEnded ok slot image) (State.tallies_of_eq h rfl rfl rfl rfl)
      (State.endWrite_onlyAlarms ok slot image s)
  | command c =>
    exact State.tallies_settleAgent (State.contextsReady_of_eq hr (by simp) (by simp) (by simp))
      (State.tallies_of_eq h (by simp) (by simp) (by simp) (by simp))

end

/-- Settles O58: each effect moves buffers between the free list, the contexts and the transmitter and loses none; what
context M releases comes back while the agent settles. -/
theorem buffersAreConserved : Obligations.BuffersAreConserved := by
  intro s t hq hc _ hb hstep
  have ht : t.tallies 0 := by
    refine step_leads (P := fun u => u.quietUntilLoaded ∧ u.contextsLaw ∧ u.tallies 0) (Q := State.tallies 0)
      (fun _ _ hp => ?_) ?_ (fun _ _ ⟨quiet, law, hp⟩ he => he.keeps_tallies quiet law hp) s t
      ⟨hq, hc, (State.tallies_iff s hc.1).mpr hb⟩ hstep
    · exact ⟨hp.1, State.contextsLaw_of_eq hp.2.1 rfl rfl rfl, State.tallies_of_eq hp.2.2 rfl rfl rfl rfl⟩
    · rintro u d ⟨quiet, law, hp⟩
      exact ⟨State.quietUntilLoaded_advance quiet d, State.contextsLaw_of_eq law (by simp) (by simp) (by simp),
        State.tallies_of_eq hp (by simp) (by simp) (by simp) (by simp)⟩
  exact (State.tallies_iff t ht.size).mp ht

end Sys2Proof.Machine
end

section
/-! PROOFS. Steps, time and the resets: what a step is, what the reset leaves, the release, and the load instant (R99, R100,
R187, R188, R195 to R198). -/

namespace Sys2Proof.Machine

open Sys2Proof

/-! ## Steps -/

theorem step_front {s : State} {c : Instr} {rest : List Instr} (h : s.pending = c :: rest) :
    step s = exec c { s with pending := rest } := by
  unfold step
  rw [h]

theorem Phase.counting_iff (p : Phase) : p.counting = true ↔ p = .starting ∨ p = .active := by
  cases p <;> simp [Phase.counting]

theorem State.advance_eq (d : Time) (s : State) :
    s.advance d = if s.phase = .starting ∨ s.phase = .active then { s with timeBase := s.timeBase + d } else s := by
  unfold State.advance
  simp only [Phase.counting_iff]

theorem State.advance_counting {s : State} (h : s.phase = .starting ∨ s.phase = .active) (d : Time) :
    s.advance d = { s with timeBase := s.timeBase + d } := by
  rw [State.advance_eq, if_pos h]

theorem State.advance_active {s : State} (h : s.phase = .active) (d : Time) :
    s.advance d = { s with timeBase := s.timeBase + d } :=
  State.advance_counting (.inr h) d

theorem State.advance_rx (d : Time) (s : State) (p : Path) : (s.advance d).rx p = s.rx p := by
  cases p <;> simp [State.rx]

/-- Settles O1: the front of the queue decides the step. -/
theorem stepRunsTheFrontCommand : Obligations.StepRunsTheFrontCommand := fun _ _ _ h => step_front h

/-- Settles O2: with nothing queued one tick passes, which the phase counts or does not. -/
theorem emptyQueueStepIsOneTick : Obligations.EmptyQueueStepIsOneTick := by
  intro s h
  have hs : step s = .next (s.advance 1) := by
    unfold step
    rw [h]
  rw [hs, State.advance_eq]

/-! ## What the reset leaves -/

theorem State.ctx_reset (i : ContextId) :
    State.reset.ctx i = Ctx.fresh (match i with | .flow _ => .none | .m => .unseeded) 0 := by
  cases i with
  | flow n => exact State.flow_reset (s := State.reset) rfl n
  | m => rfl

theorem State.ring_reset (k : Fin 8) : State.reset.ring k = [] := by
  have h : k.val < (List.replicate 8 ([] : List Index)).length := by simp
  simp only [State.ring, State.reset, List.getD_eq_getElem _ _ h, List.getElem_replicate]

/-- Settles O3: each block's reset value, read off its record. -/
theorem resetLeavesTheSpecsValues : Obligations.ResetLeavesTheSpecsValues := by
  refine ⟨fun p => by cases p <;> exact ⟨rfl, rfl, rfl, rfl, rfl, rfl⟩, rfl, rfl, rfl, rfl, rfl, rfl,
    fun n => congrArg Ctx.state (State.flow_reset (s := State.reset) rfl n), rfl, fun i => ?_, rfl, rfl, rfl, State.ring_reset, rfl, rfl, rfl, rfl,
    rfl, rfl, rfl, rfl, rfl, rfl, fun k => by cases k <;> decide, rfl, by decide⟩
  rw [State.ctx_reset]
  exact ⟨rfl, rfl, rfl, rfl, rfl, rfl, rfl, rfl, rfl, fun p => by cases p <;> rfl, rfl, rfl⟩

theorem Receiver.down_lawful (signal : Bool) : (Receiver.down signal).lawful := by
  simp [Receiver.lawful, Receiver.down, Config.upHeaders, Config.huntHeaders]

/-- Settles O50: the laws one by one, each from what the reset leaves in its block. -/
theorem resetMeetsEveryLaw : Obligations.ResetMeetsEveryLaw := by
  refine ⟨⟨Nat.zero_le _, Nat.zero_le _⟩, ⟨rfl, rfl, fun r h => absurd h List.not_mem_nil, rfl⟩, fun _ => ?_,
    ⟨Receiver.down_lawful false, Receiver.down_lawful false, nofun, nofun⟩,
    ⟨Nat.zero_le _, List.nodup_nil, fun r h => absurd h List.not_mem_nil⟩, ?_, ?_, ?_, State.contextsLaw_reset,
    (State.tallies_iff _ State.tallies_reset.size).mp State.tallies_reset, ?_, State.alarmsLaw_reset⟩
  · exact ⟨rfl, rfl, rfl, rfl, rfl, rfl, rfl, rfl, rfl, rfl, rfl, rfl, rfl, fun _ => ⟨rfl, rfl, rfl⟩⟩
  · exact ⟨Bank.default_inRange, Bank.default_inRange, Settings.default_inRange, fun i h => absurd h List.not_mem_nil⟩
  · exact ⟨Bank.default_sound, fun _ => Bank.default_sound, fun i h => absurd h List.not_mem_nil⟩
  · exact State.positionInCalendar_zero rfl (by decide)
  · exact (State.ringed_empty (by simp [State.reset]) rfl
      (fun n => congrArg Ctx.queue (State.flow_reset (s := State.reset) rfl n))).2

/-! ## The resets from outside -/

/-- A write in progress is abandoned: its slot is INVALID and the store IDLE (R193). -/
theorem Store.abandon_eq (store : Store) : store.abandon = match store.state with
    | .idle => store
    | .writing false _ => { store with slot0 := none, state := .idle }
    | .writing true _ => { store with slot1 := none, state := .idle } := by
  obtain ⟨slot0, slot1, state, k⟩ := store
  cases state with
  | idle => rfl
  | writing slot image => cases slot <;> rfl

/-- Settles O4: both rows apply the full reset, which keeps the outside and abandons a write. -/
theorem fullResetFromOutside : Obligations.FullResetFromOutside := by
  intro s store t
  have hstore : s.store.abandon = store := Store.abandon_eq s.store
  refine ⟨?_, ?_⟩
  · show Host.Outcome.next _ = _
    unfold State.fullReset
    rw [hstore]
    rfl
  · show Host.Outcome.next (s.fullReset .heldPin) = _
    unfold State.fullReset
    rw [hstore]
    rfl

theorem Receiver.released_eq (r : Receiver) :
    r.released = { r with state := if r.signal = true ∧ r.state = .down then .hunt else r.state } := by
  unfold Receiver.released
  by_cases h : r.signal = true ∧ r.state = .down
  · rw [if_pos (by simpa using h), if_pos h]
  · rw [if_neg (by simpa using h), if_neg h]

/-- Settles O5: a held part is not counting, so the row releases it. -/
theorem resetReleaseBeginsStarting : Obligations.ResetReleaseBeginsStarting := by
  intro s addr h
  have hc : s.phase.counting = false := by obtain h | h := h <;> rw [h] <;> rfl
  show Host.Outcome.next (if s.phase.counting = true then s else s.releaseReset addr) = _
  rw [hc]
  simp [State.releaseReset, Receiver.released_eq]

/-! ## The store's slots -/

/-- Two sets of alarm kinds that hold the same kinds are one. -/
theorem kinds_ext {a b : AlarmSet} (h : ∀ k, hasKind a k = hasKind b k) : a = b := by
  apply BitVec.eq_of_getLsbD_eq
  intro i hi
  have hk : ∃ k : AlarmKind, k.bit = i := by
    interval_cases i
    exacts [⟨.linkADown, rfl⟩, ⟨.linkBDown, rfl⟩, ⟨.poolEmpty, rfl⟩, ⟨.flowUnprotected, rfl⟩, ⟨.flowSilent, rfl⟩,
      ⟨.mismatch, rfl⟩, ⟨.skew, rfl⟩, ⟨.loss, rfl⟩, ⟨.resync, rfl⟩, ⟨.mgmtOverrun, rfl⟩, ⟨.storeFailed, rfl⟩,
      ⟨.storeEmpty, rfl⟩]
  obtain ⟨k, rfl⟩ := hk
  exact h k

/-- A latch, whether or not it was set before (R159, R180). -/
theorem State.latch_eq (k : AlarmKind) (s : State) :
    s.latch k = { s with
      alarms := { s.alarms with latched := s.alarms.latched ||| k.mask }
      agent := { s.agent with notifyPending := s.agent.notifyPending
        || (!hasKind s.alarms.latched k && hasKind s.tables.settings.notifyMask k) } } := by
  unfold State.latch
  split
  · next h =>
    have ho : s.alarms.latched ||| k.mask = s.alarms.latched := kinds_ext fun j => by
      rw [hasKind_or, hasKind_mask]
      by_cases hj : j = k
      · subst hj; simp [h]
      · simp [hj]
    rw [ho, h]
    simp
  · next h => simp [h]

theorem State.report_false (k : AlarmKind) (s : State) :
    s.report k false = { s with alarms := { s.alarms with holding := s.alarms.holding &&& ~~~ k.mask } } := rfl

/-- With no flow RUNNING neither flow condition holds (R64, R65). -/
theorem State.reportFlows_none {s : State} (h : ∀ n, (s.flow n).state ≠ .running) :
    s.reportFlows = { s with alarms := { s.alarms with holding :=
      s.alarms.holding &&& ~~~ (AlarmKind.flowUnprotected.mask ||| AlarmKind.flowSilent.mask) } } := by
  have hu : (List.finRange 128).any (fun n => (s.flow n).unprotected (s.entry n)) = false := by
    simp [Ctx.unprotected, h]
  have hs : (List.finRange 128).any (fun n => (s.flow n).silent) = false := by simp [Ctx.silent, h]
  unfold State.reportFlows
  dsimp only
  rw [hu, hs, State.report_false, State.report_false]
  dsimp only
  rw [BitVec.not_or, BitVec.and_assoc]

/-- A set that shares a kind with a mask is not disjoint from it. -/
theorem kinds_and_ne_zero {a b : AlarmSet} {k : AlarmKind} (ha : hasKind a k = true) (hb : hasKind b k = true) :
    (a &&& b) ≠ 0 := by
  intro h
  have hk : hasKind (a &&& b) k = hasKind 0 k := by rw [h]
  rw [hasKind_and, ha, hb] at hk
  simp [hasKind] at hk

theorem State.loadedTables_idle (s : State) (n : Index) : (s.loadedTables.flow n).state ≠ .running := by
  rw [Bank.freshFlows_flow (s := s.loadedTables) rfl]
  unfold Ctx.restart
  split <;> simp [Ctx.fresh]

/-- The alarms of the load instant: STORE_EMPTY when there is no image, and no flow condition (R12, R66). -/
theorem State.loadReported_eq (s : State) :
    s.loadReported = { s.loadedTables with
      alarms :=
        { latched := if s.store.consult.newest = none then s.alarms.latched ||| AlarmKind.storeEmpty.mask
                     else s.alarms.latched
          holding := s.alarms.holding &&& ~~~ (AlarmKind.flowUnprotected.mask ||| AlarmKind.flowSilent.mask) }
      agent := { s.agent with notifyPending := s.agent.notifyPending ||
        (decide (s.store.consult.newest = none) && !hasKind s.alarms.latched .storeEmpty &&
          hasKind s.store.consult.loadedSettings.notifyMask .storeEmpty) } } := by
  unfold State.loadReported
  cases h : s.store.consult.newest with
  | none =>
    rw [if_pos (by rfl), State.reportFlows_none (fun n => by
      rw [State.flow_of_flows (s := s.loadedTables) (by simp)]; exact s.loadedTables_idle n), State.latch_eq]
    simp [State.loadedTables]
  | some i =>
    rw [if_neg (by simp), State.reportFlows_none s.loadedTables_idle]
    simp [State.loadedTables]

/-- Setting the notification-pending flag on a condition. -/
theorem State.pendingIf (b : Bool) (s : State) :
    (if b then { s with agent := { s.agent with notifyPending := true } } else s)
      = { s with agent := { s.agent with notifyPending := s.agent.notifyPending || b } } := by
  cases b <;> simp

/-- Settles O6: the latch of an empty store, the conditions of flows none of which runs, and the pending flag. -/
theorem loadInstantLoadsTheNewestImage : Obligations.LoadInstantLoadsTheNewestImage := by
  intro s d hs image bank settings latched
  show Host.Outcome.next (if (s.advance d).phase = .starting then (s.advance d).loadInstant else s.advance d) = _
  rw [State.advance_counting (.inl hs), if_pos hs, State.loadInstant_eq, State.pendingIf, State.loadReported_eq]
  have hp : (s.agent.notifyPending || (decide (image = none) && !hasKind s.alarms.latched .storeEmpty &&
      hasKind settings.notifyMask .storeEmpty) || (latched &&& settings.notifyMask) != 0)
        = (s.agent.notifyPending || (latched &&& settings.notifyMask) != 0) := by
    cases hk : decide (image = none) && !hasKind s.alarms.latched .storeEmpty && hasKind settings.notifyMask .storeEmpty with
    | false => rw [Bool.or_false]
    | true =>
      simp only [Bool.and_eq_true, decide_eq_true_eq] at hk
      obtain ⟨⟨he, -⟩, hm⟩ := hk
      have hl := kinds_and_ne_zero (a := latched) (by simp [latched, he, hasKind_mask]) hm
      rw [bne_iff_ne.mpr hl, Bool.or_true, Bool.or_true]
  exact congrArg (fun b : Bool => Host.Outcome.next { s with
    phase := .active
    timeBase := s.timeBase + d
    tables := { active := bank, pendingBank := bank, settings := settings, commit := .none }
    flows := bank.freshFlows
    store := s.store.consult
    alarms := { latched := latched,
                holding := s.alarms.holding &&& ~~~ (AlarmKind.flowUnprotected.mask ||| AlarmKind.flowSilent.mask) }
    agent := { s.agent with notifyPending := b } }) hp

/-- Settles O7: a slot's judgement is what its consultation keeps; the newest of two is by the difference of generations. -/
theorem newestImageByGeneration : Obligations.NewestImageByGeneration := by
  refine ⟨fun store => ⟨rfl, fun i => ?_, fun i => ?_⟩, fun i0 i1 st k => ⟨fun h1 h2 => ?_, fun h1 h2 => ?_, fun h => ?_, rfl, rfl, rfl⟩⟩
  · simpa [Image.intact] using store.judgeSlot_eq_some false store.slot0 i
  · simpa [Image.intact] using store.judgeSlot_eq_some true store.slot1 i
  · simp only [Store.newest, newerGeneration, decide_eq_true h1, decide_eq_true h2, Bool.and_self, if_true]
  · have hn : newerGeneration i1.generation i0.generation = false := by
      simp only [newerGeneration, Bool.and_eq_false_iff, decide_eq_false_iff_not]
      rw [BitVec.toNat_sub] at h1 h2 ⊢
      omega
    simp [Store.newest, hn]
  · have hn : newerGeneration i1.generation i0.generation = false := by
      simp only [newerGeneration, Bool.and_eq_false_iff, decide_eq_false_iff_not]
      obtain h | h := h
      · rw [h]; simp
      · omega
    simp [Store.newest, hn]

end Sys2Proof.Machine
end

section
/-! PROOFS. The path receivers: what judging a header leaves, and the rows that hunt, check and judge (R112 to R118, R123). -/

namespace Sys2Proof.Machine

open Sys2Proof

/-! ## Writing a receiver and counting on a path -/

theorem State.setRx_self (p : Path) (s : State) : s.setRx p (s.rx p) = s := by cases p <;> rfl

theorem State.setRx_setRx (p : Path) (r r' : Receiver) (s : State) : (s.setRx p r).setRx p r' = s.setRx p r' := by
  cases p <;> rfl

theorem State.countPath_countPath (p : Path) (f g : PathCounters → PathCounters) (s : State) :
    (s.countPath p f).countPath p g = s.countPath p (fun k => g (f k)) := by cases p <;> rfl

theorem State.countPath_id (p : Path) (s : State) : s.countPath p (fun k => k) = s := by cases p <;> rfl

theorem State.countPath_setRx (p : Path) (f : PathCounters → PathCounters) (r : Receiver) (s : State) :
    (s.countPath p f).setRx p r = (s.setRx p r).countPath p f := by cases p <;> rfl

theorem State.countPath_rx (p q : Path) (f : PathCounters → PathCounters) (s : State) :
    (s.countPath p f).rx q = s.rx q := by cases q <;> simp [State.rx]

theorem State.countPath_device (p : Path) (f : PathCounters → PathCounters) (s : State) :
    (s.countPath p f).device.path p = f (s.device.path p) ∧
      (s.countPath p f).device.path (otherPath p) = s.device.path (otherPath p) := by cases p <;> exact ⟨rfl, rfl⟩

theorem State.setRx_other (p : Path) (r : Receiver) (s : State) : (s.setRx p r).rx (otherPath p) = s.rx (otherPath p) := by
  cases p <;> rfl

/-! ## Judging a header -/

/-- What a judged header counts beside its cell: a header that fails, or one whose kind and label disagree (R117, R118). -/
def judgedCount (header : BitVec 48) (k : PathCounters) : PathCounters :=
  { k with
    cellsReceived := k.cellsReceived + 1
    headerErrors := if headerPasses header = true then k.headerErrors else k.headerErrors + 1
    formatErrors := if headerPasses header = true ∧ formatError (wireKind header) (wireLabel header) = true
                    then k.formatErrors + 1 else k.formatErrors }

theorem receptionOf_formatError {header : BitVec 48} (h : formatError (wireKind header) (wireLabel header) = true) :
    receptionOf header = none := by
  unfold receptionOf
  split <;> simp_all [formatError]

theorem receptionOf_agrees {header : BitVec 48} (h : formatError (wireKind header) (wireLabel header) = false) :
    receptionOf header = match wireKind header with
      | none => none
      | some .idle => none
      | some kind => some { kind := kind, label := wireLabel header, seq := wireSeq header, check := wireCheck header } := by
  unfold receptionOf
  split <;> simp_all [formatError]

/-- A header judged at work over a receiver with nothing in reception. -/
theorem State.judgeHeader_active {p : Path} {s : State} (header : BitVec 48) (ha : s.phase = .active)
    (hr : (s.rx p).reception = none) :
    s.judgeHeader p header = (s.setRx p { s.rx p with
      reception := if headerPasses header = true then receptionOf header else none }).countPath p (judgedCount header) := by
  have same : s.setRx p { s.rx p with reception := none } = s := by rw [← hr]; exact State.setRx_self p s
  unfold State.judgeHeader
  rw [if_pos ha]
  cases hp : headerPasses header with
  | false =>
    simp only [if_true, Bool.false_eq_true, if_false, same, State.countPath_countPath]
    exact congrArg (fun f => s.countPath p f) (funext fun k => by simp [judgedCount, hp])
  | true =>
    simp only [Bool.true_eq_false, if_false, if_true]
    cases hf : formatError (wireKind header) (wireLabel header) with
    | true =>
      simp only [if_true, receptionOf_formatError hf, same, State.countPath_countPath]
      exact congrArg (fun f => s.countPath p f) (funext fun k => by simp [judgedCount, hp, hf])
    | false =>
      have hc : judgedCount header = fun k => { k with cellsReceived := k.cellsReceived + 1 } :=
        funext fun k => by simp [judgedCount, hp, hf]
      rw [receptionOf_agrees hf, hc]
      cases wireKind header with
      | none => simp [same]
      | some kind => cases kind <;> simp [same, State.countPath_setRx, State.countPath_rx]

/-- A header judged in either phase. -/
theorem State.judgeHeader_eq {p : Path} {s : State} (header : BitVec 48) (hr : (s.rx p).reception = none) :
    s.judgeHeader p header = (s.setRx p { s.rx p with
      reception := if headerPasses header = true ∧ s.phase = .active then receptionOf header else none }).countPath p
        (fun k => if s.phase = .active then judgedCount header k else k) := by
  by_cases ha : s.phase = .active
  · simp only [State.judgeHeader_active header ha hr, ha, and_true, if_true]
  · have same : s.setRx p { s.rx p with reception := none } = s := by rw [← hr]; exact State.setRx_self p s
    simp only [State.judgeHeader_idle ha p header, ha, and_false, if_false, same, State.countPath_id]

/-! ## The rows -/

theorem exec_headerInCheck {s : State} {p : Path} (header : BitVec 48) (d : Time) (h : (s.rx p).state = .check) :
    exec (.headerAtBoundary p header d) s = .next ((s.advance d).headerInCheck p header) := by
  simp only [exec, execHeaderAtBoundary, State.advance_rx, h]

theorem exec_headerInUp {s : State} {p : Path} (header : BitVec 48) (d : Time) (h : (s.rx p).state = .up) :
    exec (.headerAtBoundary p header d) s = .next ((s.advance d).headerInUp p header) := by
  simp only [exec, execHeaderAtBoundary, State.advance_rx, h]

theorem exec_hunt_found {s : State} {p : Path} {bytes : List Byte} (d : Time) (h : (s.rx p).state = .hunt)
    (hb : huntBytes (s.rx p).recent bytes = none) :
    exec (.huntCandidatePasses p bytes d) s = .next ((s.advance d).setRx p
      { s.rx p with state := .check, boundary := some Config.cellBytes, passCount := 1, recent := [] }) := by
  simp only [exec, execHuntCandidatePasses, State.advance_rx, h, if_true, hb]

theorem exec_hunt_kept {s : State} {p : Path} {bytes recent : List Byte} (d : Time) (h : (s.rx p).state = .hunt)
    (hb : huntBytes (s.rx p).recent bytes = some recent) :
    exec (.huntCandidatePasses p bytes d) s = .next ((s.advance d).setRx p { s.rx p with recent := recent }) := by
  simp only [exec, execHuntCandidatePasses, State.advance_rx, h, if_true, hb]

/-- The receiver that the sixth passing header leaves, before that header is judged (R115). -/
def Receiver.risen (r : Receiver) : Receiver :=
  { r with state := .up, boundary := r.nextBoundary, passCount := Config.upHeaders, failCount := 0, reception := none }

theorem State.enterUp_eq (p : Path) (header : BitVec 48) (s : State) (hp : headerPasses header = true) :
    s.enterUp p header =
      ({ s with alarms := { s.alarms with holding := s.alarms.holding &&& ~~~ (linkKind p).mask } }.setRx p
        { (s.rx p).risen with reception := if s.phase = Phase.active then receptionOf header else none }).countPath p
        (fun k : PathCounters => if s.phase = Phase.active then judgedCount header { k with upEntries := k.upEntries + 1 }
                  else { k with upEntries := k.upEntries + 1 }) := by
  unfold State.enterUp
  dsimp only
  rw [State.report_false, State.judgeHeader_eq header (by cases p <;> rfl)]
  simp only [hp, true_and]
  cases p <;> rfl

/-- Settles O9: the search of HUNT finds a candidate or keeps the last five bytes; a header in CHECK counts, falls back, or
is the sixth. -/
theorem huntAndCheckReachUp : Obligations.HuntAndCheckReachUp := by
  intro s p header d
  refine ⟨?_, fun hs hp hn => ?_, fun hs hp => ?_, fun hs hp hn => ?_⟩
  · intro bytes hh hl stream candidate
    refine ⟨fun ⟨i, hi, hc⟩ => ?_, fun hc => ?_⟩
    · obtain ⟨e, -⟩ | ⟨-, hnone⟩ := huntBytes_cases bytes (s.rx p).recent hl
      · exact exec_hunt_found d hh e
      · exact absurd ((hnone i hi).symm.trans hc) (by simp)
    · obtain ⟨-, i, hi, hp⟩ | ⟨e, -⟩ := huntBytes_cases bytes (s.rx p).recent hl
      · exact absurd ((hc i hi).symm.trans hp) (by simp)
      · exact exec_hunt_kept d hh e
  · rw [exec_headerInCheck header d hs]
    have hlt : ¬ Config.upHeaders ≤ (s.rx p).passCount + 1 := by simp only [Config.upHeaders]; omega
    simp only [State.headerInCheck, State.advance_rx, hp, if_true, if_neg hlt]
    rfl
  · rw [exec_headerInCheck header d hs]
    simp only [State.headerInCheck, State.advance_rx, hp, Bool.false_eq_true, if_false]
    rfl
  · have hle : Config.upHeaders ≤ (s.rx p).passCount + 1 := by simp [Config.upHeaders, hn]
    have e : (s.advance d).headerInCheck p header = (s.advance d).enterUp p header := by
      simp only [State.headerInCheck, State.advance_rx, hp, if_true, if_pos hle]
    refine ⟨_, (exec_headerInCheck header d hs).trans
      (congrArg Host.Outcome.next (e.trans (State.enterUp_eq p header _ hp))), ?_, ?_, ?_, ?_, ?_, ?_⟩
    · rw [State.countPath_rx, State.setRx_rx, State.advance_rx]
      simp only [Receiver.risen, State.advance_keeps]
      rfl
    · rw [(State.countPath_device _ _ _).1]
      cases p <;> simp only [State.setRx_keeps, State.advance_keeps, DeviceCounters.path] <;> split <;>
        simp_all [judgedCount]
    · simp
    · cases p <;> rfl
    · rw [State.countPath_rx, State.setRx_other]
      cases p <;> simp [State.rx, otherPath]
    · rw [(State.countPath_device _ _ _).2]
      simp

theorem State.headerInUp_below {p : Path} {s : State} (header : BitVec 48)
    (h : headerPasses header = true ∨ (s.rx p).failCount < 3) :
    s.headerInUp p header = (s.setRx p { s.rx p with
      boundary := (s.rx p).nextBoundary
      failCount := if headerPasses header = true then 0 else (s.rx p).failCount + 1
      reception := if headerPasses header = true ∧ s.phase = .active then receptionOf header else none }).countPath p
        (fun k => if s.phase = .active then judgedCount header k else k) := by
  have judged : ∀ r : Receiver, r.reception = none → (s.setRx p r).judgeHeader p header = (s.setRx p { r with
      reception := if headerPasses header = true ∧ s.phase = .active then receptionOf header else none }).countPath p
        (fun k => if s.phase = .active then judgedCount header k else k) := fun r hr => by
    rw [State.judgeHeader_eq header (by rw [State.setRx_rx, hr]), State.setRx_rx, State.setRx_setRx]
    simp only [State.setRx_keeps]
  unfold State.headerInUp
  cases hp : headerPasses header with
  | true => simp only [if_true, judged, hp]
  | false =>
    have hlt : (s.rx p).failCount + 1 < Config.huntHeaders := by
      simp only [Config.huntHeaders]
      have := h.resolve_left (by simp [hp])
      omega
    simp only [Bool.false_eq_true, if_false, if_pos hlt, judged, hp]

/-- Settles O10: below the fourth failing header the judgement is exact in either phase. -/
theorem headersJudgedInUp : Obligations.HeadersJudgedInUp := by
  intro s p header d hs
  refine ⟨fun hp => ?_, fun hp hn => ?_⟩ <;> rw [exec_headerInUp header d hs] <;> refine congrArg Host.Outcome.next ?_
  · rw [State.headerInUp_below header (.inl hp)]
    simp only [State.advance_rx, State.advance_keeps, hp, if_true, true_and, judgedCount]
    rfl
  · rw [State.headerInUp_below header (.inr (by rw [State.advance_rx]; exact hn))]
    simp only [State.advance_rx, State.advance_keeps, hp, Bool.false_eq_true, if_false, false_and, judgedCount]
    rfl

/-! ## A path leaves UP -/

/-- Writing a flow beyond the contexts there are leaves the empty context that stands for it. -/
theorem State.flow_beyond {s : State} {n : Index} (h : ¬ n.val < s.flows.length) : s.flow n = Ctx.fresh .none 0 := by
  unfold State.flow
  rw [List.getD_eq_default _ _ (Nat.not_lt.mp h)]

/-- A flow changed and settled, in range or not: the change leaves the empty context that stands for one that is not. -/
theorem State.flow_settleChange {f : Ctx → Ctx} (hf : f (Ctx.fresh .none 0) = Ctx.fresh .none 0) (n : Index) (t : State) :
    (t.settleFlow n (f (t.flow n))).flow n = (Ctx.settle (t.entry n) t.timeBase (f (t.flow n))).1 := by
  by_cases h : n.val < t.flows.length
  · unfold State.flow
    rw [State.settleFlow_flows, List.getD_eq_getElem _ _ (by simpa using h), List.getElem_set_self]
  · have hb : (t.settleFlow n (f (t.flow n))).flow n = Ctx.fresh .none 0 :=
      State.flow_beyond (by rwa [State.settleFlow_flows_length])
    rw [hb, State.flow_beyond h, hf, Ctx.settle_stay (Ctx.micro_idle _ _ (by simp [Ctx.fresh]) (by simp [Ctx.fresh]))]

/-- Every flow context after a path's absence (R53). -/
theorem State.flow_pathAbsent (p : Path) (s : State) (n : Index) :
    (s.pathAbsent p).flow n = (Ctx.settle (s.entry n) s.timeBase ((s.flow n).markAbsent p)).1 := by
  have each := State.forFlows_each (I := fun t => t.tables = s.tables ∧ t.timeBase = s.timeBase)
    (f := fun n t => t.settleFlow n ((t.flow n).markAbsent p))
    (g := fun n c => (Ctx.settle (s.entry n) s.timeBase (c.markAbsent p)).1)
    (fun n t h => by simpa using h)
    (fun n t ⟨h1, h2⟩ => by rw [State.flow_settleChange (f := Ctx.markAbsent p) (Ctx.markAbsent_fresh p .none 0), State.entry, h1, h2]; rfl)
    (fun n k t _ hk => State.flow_settleFlow_ne hk _ t) { s with m := s.m.markAbsent p } ⟨rfl, rfl⟩ n
  exact (State.flow_of_flows (by simp [State.pathAbsent]) n).trans each

theorem State.pathAbsent_pool (p : Path) (s : State) : (s.pathAbsent p).pool = s.pool := by
  have h := State.forFlows_induct (P := fun t => t.pool = s.pool)
    (f := fun n t => t.settleFlow n ((t.flow n).markAbsent p)) (fun n t ht => by simpa using ht)
    { s with m := s.m.markAbsent p } rfl
  simpa [State.pathAbsent] using h

theorem Ctx.settle_pres (e : Entry) (now : Time) (c : Ctx) (p : Path) : (Ctx.settle e now c).1.pres p = c.pres p := by
  obtain ⟨run, h⟩ := Ctx.settle_released e now c
  cases p
  · exact h.presA
  · exact h.presB

theorem Ctx.setPres_pres (p : Path) (r : Presence) (c : Ctx) :
    (c.setPres p r).pres p = r ∧ (c.setPres p r).pres (otherPath p) = c.pres (otherPath p) := by cases p <;> exact ⟨rfl, rfl⟩

theorem Ctx.markAbsent_pres (p : Path) (c : Ctx) :
    (c.markAbsent p).pres p = { c.pres p with present := false, expiry := none } ∧
      (c.markAbsent p).pres (otherPath p) = c.pres (otherPath p) :=
  c.setPres_pres p _

theorem State.absentEverywhere_pathAbsent (p : Path) (s : State) :
    State.absentEverywhere p (otherPath p) s (s.pathAbsent p) := by
  refine ⟨fun n => ?_, ?_⟩
  · rw [State.flow_pathAbsent, Ctx.settle_pres, Ctx.settle_pres]
    exact Ctx.markAbsent_pres p _
  · rw [State.pathAbsent_m]
    exact Ctx.markAbsent_pres p _

/-- A condition that no flow decides outlasts the change of the contexts. -/
theorem State.pathAbsent_holding (p : Path) {k : AlarmKind} (hk : ¬ k.ofFlows) (s : State) :
    hasKind (s.pathAbsent p).alarms.holding k = hasKind s.alarms.holding k := by
  have settled : ∀ (n : Index) (c : Ctx) (t : State), (t.settleFlow n c).alarms.holding = t.alarms.holding := fun n c t => by
    rw [State.settleFlow_eq]
    split <;> simp
  have h := State.forFlows_induct (P := fun t => t.alarms.holding = s.alarms.holding)
    (f := fun n t => t.settleFlow n ((t.flow n).markAbsent p)) (fun n t ht => (settled _ _ _).trans ht)
    { s with m := s.m.markAbsent p } rfl
  unfold State.pathAbsent
  rw [State.reportFlows_holding, if_neg (fun e => hk (.inr e)), if_neg (fun e => hk (.inl e)), h]

theorem linkKind_not_ofFlows (p : Path) : ¬ (linkKind p).ofFlows := by cases p <;> simp [AlarmKind.ofFlows, linkKind]

/-- What a path that leaves UP brings: its condition holds and latches, and it is ABSENT everywhere (R125, R126). -/
theorem State.leftUp_leaves (p : Path) (s : State) :
    hasKind (s.leftUp p).alarms.holding (linkKind p) = true ∧
      (hasKind s.alarms.holding (linkKind p) = false → hasKind (s.leftUp p).alarms.latched (linkKind p) = true) ∧
      State.absentEverywhere p (otherPath p) s (s.leftUp p) ∧ (s.leftUp p).pool = s.pool := by
  have hr := State.absentEverywhere_pathAbsent p (s.report (linkKind p) true)
  refine ⟨?_, fun h => ?_, ?_, ?_⟩
  · unfold State.leftUp
    rw [State.pathAbsent_holding p (linkKind_not_ofFlows p), State.report_holding, if_pos rfl]
  · obtain ⟨-, -, hl⟩ := State.pathAbsent_onlyMerge p (s.report (linkKind p) true)
    refine hl _ ?_
    rw [State.report_latched, h]
    simp
  · unfold State.absentEverywhere at hr ⊢
    have flow : ∀ n, (s.report (linkKind p) true).flow n = s.flow n := State.flow_of_flows (by simp)
    have hm : (s.report (linkKind p) true).m = s.m := by simp
    simp only [flow, hm] at hr
    exact hr
  · exact (State.pathAbsent_pool p _).trans (by simp)

theorem State.headerInUp_fourth {p : Path} {s : State} (header : BitVec 48) (hp : headerPasses header = false)
    (hn : (s.rx p).failCount = 3) :
    s.headerInUp p header = State.leftUp p ((s.setRx p { s.rx p with
      state := .hunt, boundary := none, failCount := 0, reception := none, recent := afterFailing header }).countPath p
        (fun k => if s.phase = .active then judgedCount header k else k)) := by
  have hlt : ¬ (s.rx p).failCount + 1 < Config.huntHeaders := by simp [Config.huntHeaders, hn]
  unfold State.headerInUp
  simp only [hp, Bool.false_eq_true, if_false, if_neg hlt]
  rw [State.judgeHeader_eq header (by rw [State.setRx_rx])]
  simp only [hp, Bool.false_eq_true, false_and, if_false, State.setRx_rx, State.setRx_setRx, State.countPath_setRx,
    State.setRx_keeps]

/-- A path leaves UP in a state whose receivers and counters alone a row has written (R125, R126). -/
theorem State.leftUp_behind {s u : State} {d : Time} {a b : Receiver} {dv : DeviceCounters} (p : Path)
    (hu : u = { s.advance d with rxA := a, rxB := b, device := dv }) :
    (∀ q, (u.leftUp p).rx q = u.rx q) ∧ (u.leftUp p).device = dv ∧
      hasKind (u.leftUp p).alarms.holding (linkKind p) = true ∧
      (hasKind s.alarms.holding (linkKind p) = false → hasKind (u.leftUp p).alarms.latched (linkKind p) = true) ∧
      State.absentEverywhere p (otherPath p) s (u.leftUp p) ∧
      u.leftUp p = { s.advance d with
        rxA := (u.leftUp p).rxA, rxB := (u.leftUp p).rxB, device := (u.leftUp p).device, flows := (u.leftUp p).flows
        m := (u.leftUp p).m, alarms := (u.leftUp p).alarms
        sched := { s.sched with rings := (u.leftUp p).sched.rings }
        agent := { s.agent with notifyPending := (u.leftUp p).agent.notifyPending } } := by
  obtain ⟨hhold, hlatch, habs, hpool⟩ := State.leftUp_leaves p u
  have hm := State.leftUp_onlyMerge p u
  obtain ⟨-, -, -, -, hA, hB, hd, -⟩ := State.onlyMerge_keeps hm
  have halarms : u.alarms = s.alarms := by rw [hu]; simp
  have hflow : ∀ n, u.flow n = s.flow n := State.flow_of_flows (by rw [hu]; simp)
  have hum : u.m = s.m := by rw [hu]; simp
  refine ⟨fun q => by cases q <;> simp [State.rx, hA, hB], by rw [hd, hu], hhold, halarms ▸ hlatch, ?_, ?_⟩
  · unfold State.absentEverywhere at habs ⊢
    simp only [hflow, hum] at habs
    exact habs
  · have hsched : u.sched = s.sched := by rw [hu]; simp
    have hagent : u.agent = s.agent := by rw [hu]; simp
    have e := hm.1
    rw [hpool, hsched, hagent] at e
    rw [hA, hB, hd]
    subst hu
    exact e

/-- Settles O11: the fourth failing header is judged at work, and then the path leaves UP. -/
theorem fourthFailingHeaderLeavesUp : Obligations.FourthFailingHeaderLeavesUp := by
  intro s p header d hph hs hn hp
  refine ⟨_, (exec_headerInUp header d hs).trans (congrArg Host.Outcome.next
    (State.headerInUp_fourth header hp (by rw [State.advance_rx]; exact hn))), ?_⟩
  rw [State.advance_rx]
  generalize hr : ({ s.rx p with state := .hunt, boundary := none, failCount := 0, reception := none, recent := afterFailing header } : Receiver) = r
  generalize hf : (fun k => if (s.advance d).phase = .active then judgedCount header k else k) = f
  obtain ⟨a, b, dv, hu⟩ : ∃ a b dv, ((s.advance d).setRx p r).countPath p f
      = { s.advance d with rxA := a, rxB := b, device := dv } := by cases p <;> exact ⟨_, _, _, rfl⟩
  obtain ⟨hrx, hdev, hhold, hlatch, habs, hframe⟩ := State.leftUp_behind p hu
  have hd : dv = (((s.advance d).setRx p r).countPath p f).device := by rw [hu]
  obtain ⟨hself, hother⟩ := State.countPath_device p f ((s.advance d).setRx p r)
  rw [← hd] at hself hother
  simp only [State.setRx_keeps, State.advance_keeps] at hself hother
  refine ⟨?_, ?_, ?_, fun hst => ?_, ?_, hhold, hlatch, habs, hframe⟩
  · rw [hrx, State.countPath_rx, State.setRx_rx, ← hr]
    rfl
  · rw [hrx, State.countPath_rx, State.setRx_other, State.advance_rx]
  · rw [hdev, hself, ← hf]
    simp only [State.advance_keeps, judgedCount, hp]
    split <;> simp
  · have hid : f = fun k => k := by
      rw [← hf]
      simp [hst]
    rw [hdev, hd, hid, State.countPath_id]
    simp
  · rw [hdev, hother]

end Sys2Proof.Machine
end

section
/-! PROOFS. The last byte of a cell, and the cells that reach no context (R13 to R16, R119, R120, R122). -/

namespace Sys2Proof.Machine

open Sys2Proof

/-! ## The last byte -/

/-- The receiver of a path with nothing in reception. -/
def State.received (p : Path) (s : State) : State := s.setRx p { s.rx p with reception := none }

theorem State.received_advance (p : Path) (d : Time) (s : State) :
    (s.advance d).received p = (s.advance d).setRx p { s.rx p with reception := none } := by
  unfold State.received
  rw [State.advance_rx]

/-- A good cell is delivered with its stamp (R102, R122). -/
theorem State.lastByte_good {p : Path} {h : Header} {payload check : List Byte} {s : State} (hl : payload.length = 54)
    (hp : payloadPasses payload (checkOf check) = true) :
    s.lastByte p h payload check = (some (receivedBuffer p h payload (checkOf check) s.timeBase), s.received p) := by
  have hfit : fitBytes Config.payloadBytes payload = payload := fitBytes_of_length (n := 54) hl
  unfold State.lastByte
  simp only [hfit, hp, if_true, State.setRx_keeps]
  rfl

/-- A damaged cell is discarded and counted (R119, R120). -/
theorem State.lastByte_damaged {p : Path} {h : Header} {payload check : List Byte} {s : State} (hl : payload.length = 54)
    (hp : payloadPasses payload (checkOf check) = false) :
    s.lastByte p h payload check = (none, (s.received p).payloadError p h.kind) := by
  have hfit : fitBytes Config.payloadBytes payload = payload := fitBytes_of_length (n := 54) hl
  unfold State.lastByte
  simp only [hfit, hp, Bool.false_eq_true, if_false]
  rfl

theorem exec_cellLastByte {s : State} {p : Path} {h : Header} (payload check : List Byte) (d : Time)
    (hr : (s.rx p).reception = some h) :
    exec (.cellLastByte p payload check d) s = .next (State.takeDelivered
      ((s.advance d).lastByte p h payload check).1 ((s.advance d).lastByte p h payload check).2) := by
  simp only [exec, execCellLastByte, State.advance_rx, hr]

/-- CELL_LAST_BYTE of a good cell hands it to the Classifier. -/
theorem exec_cellLastByte_good {s : State} {p : Path} {h : Header} {payload check : List Byte} (d : Time)
    (hr : (s.rx p).reception = some h) (hl : payload.length = 54) (hp : payloadPasses payload (checkOf check) = true) :
    exec (.cellLastByte p payload check d) s = .next (State.classify
      (receivedBuffer p h payload (checkOf check) (s.advance d).timeBase)
      ((s.advance d).setRx p { s.rx p with reception := none })) := by
  rw [exec_cellLastByte payload check d hr, State.lastByte_good hl hp, State.received_advance]
  rfl

/-! ## The Classifier -/

theorem State.classify_unmatched {b : Buffer} {s : State} (hl : b.cell.label ≠ managementLabel)
    (hn : s.tables.active.lookup b.cell.label = none) : s.classify b = s.unmatched b.cell.label b.path b.stamp := by
  unfold State.classify
  rw [if_neg hl, hn]

theorem State.classify_used {b : Buffer} {s : State} {n : Index} (hl : b.cell.label ≠ managementLabel)
    (hn : s.tables.active.lookup b.cell.label = some n) (hu : (s.entry n).policy.uses b.path = true) :
    s.classify b = s.arriveFlow n b := by
  unfold State.classify
  rw [if_neg hl, hn]
  exact if_pos hu

theorem State.classify_excluded {b : Buffer} {s : State} {n : Index} (hl : b.cell.label ≠ managementLabel)
    (hn : s.tables.active.lookup b.cell.label = some n) (hu : (s.entry n).policy.uses b.path = false) :
    s.classify b = s.countPath b.path (fun k => { k with ignoredPath := k.ignoredPath + 1 }) := by
  unfold State.classify
  rw [if_neg hl, hn]
  exact if_neg (by rw [hu]; simp)

theorem State.classify_management {b : Buffer} {s : State} (hl : b.cell.label = managementLabel) :
    s.classify b = s.arriveM b := by
  unfold State.classify
  rw [if_pos hl]

/-! ## The Stray Label List -/

theorem strays_any (label : Label) (strays : List Stray) :
    strays.any (fun r => r.label == label) = true ↔ label ∈ strays.map Stray.label := by
  simp [List.mem_map]

theorem offerStray_known {label : Label} {p : Path} {stamp : Time} {strays : List Stray}
    (h : label ∈ strays.map Stray.label) :
    offerStray label p stamp strays
      = some (strays.map (fun r => if r.label = label then { r with count := r.count + 1, last := stamp } else r)) := by
  unfold offerStray
  rw [if_pos ((strays_any label strays).mpr h)]
  simp only [beq_iff_eq]

theorem offerStray_new {label : Label} {p : Path} {stamp : Time} {strays : List Stray}
    (h : label ∉ strays.map Stray.label) :
    offerStray label p stamp strays
      = if strays.length < 8 then some (strays ++ [{ label := label, firstSeen := p, count := 1, last := stamp }])
        else none := by
  unfold offerStray
  rw [if_neg (fun e => h ((strays_any label strays).mp e))]
  rfl

/-! ## Cells that reach no context -/

theorem State.payloadError_eq (p : Path) (kind : Kind) (s : State) :
    s.payloadError p kind = { s.countPath p (fun k => { k with payloadErrors := k.payloadErrors + 1 }) with
      agent := { s.agent with integrity := if kind = .mgmt then true else s.agent.integrity } } := by
  unfold State.payloadError
  split <;> cases p <;> simp [State.countPath]

theorem Policy.excludes {policy : Policy} {p : Path} (h : policy = .aOnly ∧ p = .b ∨ policy = .bOnly ∧ p = .a) :
    policy.uses p = false := by
  obtain ⟨rfl, rfl⟩ | ⟨rfl, rfl⟩ := h <;> rfl

/-- Settles O12: a damaged cell is counted, an unmatched one is offered to the strays, an excluded one is counted. -/
theorem cellsThatReachNoContext : Obligations.CellsThatReachNoContext := by
  intro s p h payload b60 b61 b62 b63 d hr hl check s1 counted
  have htab : s1.tables = s.tables := by simp [s1]
  have hstr : s1.strays = s.strays := by simp [s1]
  refine ⟨fun hp => ?_, fun hp hm hn => ?_, fun n hp hm hb hv hi hx => ?_⟩
  · have ha : s1.agent = s.agent := by simp [s1]
    rw [exec_cellLastByte payload _ d hr, State.lastByte_damaged (check := [b60, b61, b62, b63]) hl hp,
      State.received_advance, State.takeDelivered_none, State.payloadError_eq, ha]
  · have hlook : s1.tables.active.lookup h.label = none := by rw [htab]; exact Bank.lookup_none hn
    have hc : exec (.cellLastByte p payload [b60, b61, b62, b63] d) s = .next (s1.unmatched h.label p s1.timeBase) :=
      (exec_cellLastByte_good (check := [b60, b61, b62, b63]) d hr hl hp).trans (congrArg Host.Outcome.next
        ((State.classify_unmatched hm hlook).trans (by simp [receivedBuffer, s1])))
    have hu : s1.unmatched h.label p s1.timeBase = match offerStray h.label p s1.timeBase s.strays with
        | some strays => { counted with strays := strays }
        | none => { counted with device := { counted.device with strayOverflow := counted.device.strayOverflow + 1 } } := by
      rw [← hstr]; rfl
    rw [hc, hu]
    refine ⟨fun hin => ?_, fun hin hlt => ?_, fun hin hle => ?_⟩
    · rw [offerStray_known hin]
    · rw [offerStray_new hin, if_pos hlt]
    · have ho : counted.device.strayOverflow = s.device.strayOverflow := by cases p <;> simp [counted, s1, State.countPath]
      rw [offerStray_new hin, if_neg (Nat.not_lt.mpr hle), ho]
  · have hlook : s1.tables.active.lookup h.label = some n := by rw [htab]; exact Bank.lookup_sound hb hv hi
    have hu : (s1.entry n).policy.uses p = false := by rw [State.entry, htab]; exact Policy.excludes hx
    exact (exec_cellLastByte_good (check := [b60, b61, b62, b63]) d hr hl hp).trans (congrArg Host.Outcome.next
      (State.classify_excluded (b := receivedBuffer p h payload check (s.advance d).timeBase) (s := s1) hm hlook hu))

end Sys2Proof.Machine
end

section
/-! PROOFS. Settling, exactly: which records leave the held set, and the context they leave (R29 to R32, R39 to R41, R56 to
R59). -/

namespace Sys2Proof.Machine

open Sys2Proof

/-! ## One record given its turn -/

/-- The release of a record changes the queue and the renumber counter as `sentAs` says. -/
theorem sentAs_cons (e : Entry) (renumber : Seq) (h : HeldRec) (run : List HeldRec) :
    sentAs e renumber (h :: run)
      = relabelled e renumber h.buffer :: sentAs e (if e.renumber then renumber + 1 else renumber) run := by
  unfold sentAs
  rw [List.mapIdx_cons]
  refine congrArg₂ List.cons (by simp [relabelled]) (List.mapIdx_eq_mapIdx_iff.mpr fun i hi => ?_)
  cases e.renumber
  · simp
  · simp [BitVec.ofNat_add, BitVec.add_assoc, BitVec.add_comm 1#16]

theorem Ctx.enqueueAll_exact (e : Entry) : ∀ (run : List HeldRec) (c : Ctx),
    c.enqueueAll e (run.map HeldRec.buffer) = { c with
      queue := c.queue ++ sentAs e c.renumber run
      renumber := if e.renumber then c.renumber + BitVec.ofNat 16 run.length else c.renumber }
  | [], c => by simp [sentAs]
  | h :: run, c => by
    rw [List.map_cons, Ctx.enqueueAll_cons, Ctx.enqueueAll_exact e run, sentAs_cons]
    cases he : e.renumber <;>
      simp [Ctx.enqueue, he, BitVec.ofNat_add, BitVec.add_assoc, BitVec.add_comm 1#16]

theorem take_append_take {α : Type} (k : Nat) (a l : List α) : (a ++ l.take k).take k = (a ++ l).take k := by
  simp [List.take_append, List.take_take]

/-- The gap below a record given up and the record released, the queue apart (R39, R59). -/
def Ctx.passRec (h : HeldRec) (rest : List HeldRec) (c : Ctx) : Ctx := (c.giveUpGap h).releaseRec h rest

/-- A first record's turn and then the others' is the turn of all (R39, R40, R41, R59). -/
theorem Ctx.afterRun_passRec (e : Entry) (hold : Nat) (h : HeldRec) (run rest held : List HeldRec) (c : Ctx) :
    ((c.passRec h held).enqueue e h.buffer).afterRun e hold run rest = c.afterRun e hold (h :: run) rest := by
  have hnes : (match run.getLast? with | some r => r.buffer.cell.seq + 1 | none => h.buffer.cell.seq + 1)
      = (match (h :: run).getLast? with | some r => r.buffer.cell.seq + 1 | none => c.nes) := by
    cases run with
    | nil => rfl
    | cons r run => rw [List.getLast?_cons_cons]; cases hr : (r :: run).getLast? <;> simp_all
  have hhist : ((fates (h.buffer.cell.seq + 1) run).reverse ++ (c.passRec h held).history).take 64
      = ((fates c.nes (h :: run)).reverse ++ c.history).take 64 := by
    simp only [Ctx.passRec, Ctx.releaseRec, Ctx.giveUpGap, pushHistory, Config.historyPlaces, fates, List.reverse_append,
      List.reverse_cons, List.reverse_replicate, List.append_assoc]
    rw [take_append_take, ← List.append_assoc, take_append_take]
    simp only [List.replicate_succ, List.replicate_zero, List.append_assoc, List.cons_append,
      List.nil_append]
  have hcount : ({ (c.passRec h held).counters with
      lost := (c.passRec h held).counters.lost + BitVec.ofNat 32 (gapsBelow (h.buffer.cell.seq + 1) run)
      emitted := (c.passRec h held).counters.emitted + BitVec.ofNat 32 run.length
      acceptedA := (c.passRec h held).counters.acceptedA + BitVec.ofNat 32 (run.countP (fun r => r.buffer.path == .a))
      acceptedB := (c.passRec h held).counters.acceptedB + BitVec.ofNat 32 (run.countP (fun r => r.buffer.path == .b)) }
        : FlowCounters)
      = { c.counters with
      lost := c.counters.lost + BitVec.ofNat 32 (gapsBelow c.nes (h :: run))
      emitted := c.counters.emitted + BitVec.ofNat 32 (h :: run).length
      acceptedA := c.counters.acceptedA + BitVec.ofNat 32 ((h :: run).countP (fun r => r.buffer.path == .a))
      acceptedB := c.counters.acceptedB + BitVec.ofNat 32 ((h :: run).countP (fun r => r.buffer.path == .b)) } := by
    cases hp : h.buffer.path <;>
      simp [Ctx.passRec, Ctx.releaseRec, Ctx.giveUpGap, FlowCounters.countAccepted, hp, gapsBelow, BitVec.ofNat_add,
        BitVec.add_assoc, BitVec.add_comm 1#32]
  have hqueue : c.queue ++ [relabelled e c.renumber h.buffer]
        ++ sentAs e (if e.renumber then c.renumber + 1 else c.renumber) run
      = c.queue ++ sentAs e c.renumber (h :: run) := by rw [sentAs_cons]; simp
  have hren : (if e.renumber then (if e.renumber then c.renumber + 1 else c.renumber) + BitVec.ofNat 16 run.length
        else (if e.renumber then c.renumber + 1 else c.renumber))
      = if e.renumber then c.renumber + BitVec.ofNat 16 (h :: run).length else c.renumber := by
    cases e.renumber <;> simp [BitVec.ofNat_add, BitVec.add_assoc, BitVec.add_comm 1#16]
  unfold Ctx.afterRun
  rw [Ctx.mk.injEq]
  exact ⟨rfl, hnes, rfl, rfl, rfl, rfl, hqueue, rfl, rfl, rfl, rfl, hren, rfl, hhist, hcount⟩


/-- A context released in full but for its last look has the history's 64 positions already. -/
theorem Ctx.afterRun_nil (e : Entry) (hold : Nat) (rest : List HeldRec) (c : Ctx) (hist : c.history.length ≤ 64) :
    c.afterRun e hold [] rest = { c with
      held := rest, gapDeadline := rest.head?.map (fun h => h.buffer.stamp + BitVec.ofNat 48 hold) } := by
  unfold Ctx.afterRun
  simp [sentAs, fates, gapsBelow, List.take_of_length_le hist]

theorem Ctx.passRec_history (h : HeldRec) (rest : List HeldRec) (c : Ctx) : (c.passRec h rest).history.length ≤ 64 := by
  simp [Ctx.passRec, Ctx.releaseRec, pushHistory, Config.historyPlaces]

/-- At NES there is no gap to give up. -/
theorem Ctx.releaseRec_eq_passRec {h : HeldRec} {c : Ctx} (rest : List HeldRec) (hn : h.buffer.cell.seq = c.nes) :
    c.releaseRec h rest = c.passRec h rest := by
  unfold Ctx.passRec Ctx.releaseRec Ctx.giveUpGap pushHistory
  rw [Ctx.mk.injEq]
  refine ⟨rfl, by rw [hn], rfl, rfl, rfl, rfl, rfl, rfl, rfl, rfl, rfl, rfl, rfl, ?_, ?_⟩
  · rw [take_append_take, ← hn, seqDist_self]
    rfl
  · rw [← hn, seqDist_self]
    simp

/-! ## Which records leave -/

/-- The records that leave, one by one from the lowest: while the next is at NES or its own deadline is past (R40, R58). -/
def splitRun (hold : Nat) (now : Time) : Seq → List HeldRec → List HeldRec × List HeldRec
  | _, [] => ([], [])
  | nes, r :: rest =>
    if r.buffer.cell.seq = nes ∨ hold ≤ ticksSince now r.buffer.stamp then
      (r :: (splitRun hold now (r.buffer.cell.seq + 1) rest).1, (splitRun hold now (r.buffer.cell.seq + 1) rest).2)
    else ([], r :: rest)

section
variable {hold : Nat} {now : Time}

theorem splitRun_append : ∀ (nes : Seq) (held : List HeldRec),
    held = (splitRun hold now nes held).1 ++ (splitRun hold now nes held).2
  | _, [] => rfl
  | nes, r :: rest => by
    unfold splitRun
    split
    · rw [List.cons_append, ← splitRun_append]
    · rfl

/-- NES behind a run that began with NES at `nes`. -/
def nesBehind (nes : Seq) (run : List HeldRec) : Seq :=
  match run.getLast? with | some h => h.buffer.cell.seq + 1 | none => nes

theorem nesBehind_cons (nes : Seq) (r : HeldRec) (run : List HeldRec) :
    nesBehind nes (r :: run) = nesBehind (r.buffer.cell.seq + 1) run := by
  unfold nesBehind
  cases run with
  | nil => rfl
  | cons q run => rw [List.getLast?_cons_cons]; cases hr : (q :: run).getLast? <;> simp_all

/-- The record that stays lowest is neither at NES nor past. -/
theorem splitRun_waits : ∀ (nes : Seq) (held : List HeldRec) (r : HeldRec),
    (splitRun hold now nes held).2.head? = some r →
      r.buffer.cell.seq ≠ nesBehind nes (splitRun hold now nes held).1 ∧ ticksSince now r.buffer.stamp < hold
  | _, [], r, h => by simp [splitRun] at h
  | nes, q :: rest, r, h => by
    unfold splitRun at h ⊢
    split at h
    · next hq =>
      rw [if_pos hq, nesBehind_cons]
      exact splitRun_waits _ rest r h
    · next hq =>
      rw [if_neg hq]
      obtain rfl : q = r := by simpa using h
      exact ⟨fun e => hq (.inl e), Nat.lt_of_not_le fun e => hq (.inr e)⟩

/-- Each record that leaves follows the one before it or is past. -/
theorem splitRun_follows : ∀ (nes : Seq) (held : List HeldRec) (p : HeldRec), p.buffer.cell.seq + 1 = nes →
    ∀ (i : Nat) (q r : HeldRec), (p :: (splitRun hold now nes held).1)[i]? = some q →
      (splitRun hold now nes held).1[i]? = some r →
      r.buffer.cell.seq = q.buffer.cell.seq + 1 ∨ hold ≤ ticksSince now r.buffer.stamp
  | _, [], _, _, i, q, r, _, hr => by simp [splitRun] at hr
  | nes, x :: rest, p, hp, i, q, r, hq, hr => by
    unfold splitRun at hq hr
    split at hr
    · next hx =>
      rw [if_pos hx] at hq
      cases i with
      | zero =>
        obtain rfl : p = q := by simpa using hq
        obtain rfl : x = r := by simpa using hr
        exact hx.imp (fun e => e.trans hp.symm) id
      | succ i => exact splitRun_follows _ rest x rfl i q r (by simpa using hq) (by simpa using hr)
    · simp at hr

/-- A first part that follows on, or is past, and then a record that does neither, is what leaves. -/
theorem splitRun_eq : ∀ (run rest : List HeldRec) (nes : Seq),
    (∀ (i : Nat) (r : HeldRec), run[i]? = some r →
      r.buffer.cell.seq = nesBehind nes (run.take i) ∨ hold ≤ ticksSince now r.buffer.stamp) →
    (∀ r, rest.head? = some r → r.buffer.cell.seq ≠ nesBehind nes run ∧ ticksSince now r.buffer.stamp < hold) →
    splitRun hold now nes (run ++ rest) = (run, rest)
  | [], [], _, _, _ => rfl
  | [], r :: rest, nes, _, hw => by
    obtain ⟨h1, h2⟩ := hw r rfl
    unfold splitRun
    exact if_neg (fun e => e.elim h1 (Nat.not_le.mpr h2))
  | x :: run, rest, nes, hr, hw => by
    have ih := splitRun_eq run rest (x.buffer.cell.seq + 1)
      (fun i r h => by simpa [nesBehind_cons] using hr (i + 1) r (by simpa using h))
      (fun r h => by rw [← nesBehind_cons nes]; exact hw r h)
    rw [List.cons_append]
    unfold splitRun
    rw [if_pos (by simpa [nesBehind] using hr 0 x rfl), ih]

/-! ## Settling -/

/-- The context a settling run leaves before its cells are queued. -/
def Ctx.ran (hold : Nat) (run rest : List HeldRec) (c : Ctx) : Ctx :=
  { c.afterRun Entry.default hold run rest with queue := c.queue, renumber := c.renumber }

theorem Ctx.ran_passRec (hold : Nat) (h : HeldRec) (run rest held : List HeldRec) (c : Ctx) :
    (c.passRec h held).ran hold run rest = c.ran hold (h :: run) rest := by
  have hp := Ctx.afterRun_passRec Entry.default hold h run rest held c
  unfold Ctx.ran
  rw [← hp]
  rfl

theorem Ctx.ran_enqueueAll (e : Entry) (hold : Nat) (run rest : List HeldRec) (c : Ctx) :
    (c.ran hold run rest).enqueueAll e (run.map HeldRec.buffer) = c.afterRun e hold run rest := by
  rw [Ctx.enqueueAll_exact]
  rfl

variable {p : Params}

/-- A RUNNING context whose deadline is not set settles: what leaves is `splitRun`'s first part (R40, R58, R59). -/
theorem Ctx.settleRun_running (held : List HeldRec) : ∀ (fuel : Nat) (c : Ctx), c.state = .running → c.held = held →
    c.gapDeadline = none → c.history.length ≤ 64 → 2 * held.length + 1 ≤ fuel → c.applicableHold p = hold →
    ∃ lost, c.settleRun p now fuel =
      { ctx := c.ran hold (splitRun hold now c.nes held).1 (splitRun hold now c.nes held).2
        released := (splitRun hold now c.nes held).1.map HeldRec.buffer
        lost := lost } := by
  induction held with
  | nil =>
    intro fuel c hs hh _ hist hf _
    obtain ⟨k, rfl⟩ : ∃ k, fuel = k + 1 := ⟨fuel - 1, by omega⟩
    refine ⟨false, ?_⟩
    rw [Ctx.settleRun_stay (Ctx.micro_running_nil hs hh)]
    simp [splitRun, Ctx.ran, Ctx.afterRun_nil _ _ _ _ hist, hh]
  | cons h rest ih =>
    intro fuel c hs hh hg hist hf hhold
    obtain ⟨fuel, rfl⟩ : ∃ k, fuel = k + 1 := ⟨fuel - 1, by omega⟩
    have next : ∀ k, 2 * rest.length + 1 ≤ k → ∃ lost, (c.passRec h rest).settleRun p now k =
        { ctx := c.ran hold (h :: (splitRun hold now (h.buffer.cell.seq + 1) rest).1)
            (splitRun hold now (h.buffer.cell.seq + 1) rest).2
          released := (splitRun hold now (h.buffer.cell.seq + 1) rest).1.map HeldRec.buffer
          lost := lost } := fun k hk => by
      obtain ⟨lost, e⟩ := ih k (c.passRec h rest) hs rfl rfl (c.passRec_history h rest) hk hhold
      exact ⟨lost, e.trans (by rw [Ctx.ran_passRec]; rfl)⟩
    rw [List.length_cons] at hf
    by_cases hn : h.buffer.cell.seq = c.nes
    · obtain ⟨lost, e⟩ := next fuel (by omega)
      refine ⟨lost, ?_⟩
      rw [splitRun, if_pos (.inl hn), Ctx.settleRun, Ctx.micro_release hs hh hn]
      simp only [Ctx.releaseRec_eq_passRec rest hn, e, List.map_cons]
    · by_cases hd : hold ≤ ticksSince now h.buffer.stamp
      · obtain ⟨k, rfl⟩ : ∃ k, fuel = k + 1 := ⟨fuel - 1, by omega⟩
        obtain ⟨lost, e⟩ := next k (by omega)
        refine ⟨true, ?_⟩
        rw [splitRun, if_pos (.inr hd), Ctx.settleRun, Ctx.micro_gap_past hs hh hn (by simp [hg]) (by rw [hhold]; exact hd)]
        have e' : ((c.giveUpGap h).releaseRec h rest).settleRun p now k = _ := e
        simp only [Ctx.settleRun, Ctx.micro_release (c := c.giveUpGap h) hs hh rfl, e', List.map_cons, Bool.true_or]
      · refine ⟨false, ?_⟩
        rw [splitRun, if_neg (fun e => e.elim hn hd), Ctx.settleRun_stay (Ctx.micro_gap_waits hs hh hn
          (.inr (by rw [hhold]; exact Nat.lt_of_not_le hd)))]
        simp [Ctx.ran, Ctx.afterRun_nil _ _ _ _ hist, hh, hhold, deadlineAt]

variable {c : Ctx} {h : HeldRec} {above : List HeldRec} {e : Entry}

/-- A RUNNING context whose lowest record is at NES, or past under a deadline computed anew, releases it and what follows. -/
theorem Ctx.settleRun_leaves {fuel : Nat} (hs : c.state = .running) (hh : c.held = h :: above)
    (go : h.buffer.cell.seq = c.nes ∨ c.gapDeadline ≠ some (deadlineAt (c.applicableHold p) h.buffer.stamp) ∧
      c.applicableHold p ≤ ticksSince now h.buffer.stamp) (hf : 2 * above.length + 3 ≤ fuel) :
    ∃ lost, c.settleRun p now fuel =
        { ctx := c.ran (c.applicableHold p) (h :: (splitRun (c.applicableHold p) now (h.buffer.cell.seq + 1) above).1)
            (splitRun (c.applicableHold p) now (h.buffer.cell.seq + 1) above).2
          released := (h :: (splitRun (c.applicableHold p) now (h.buffer.cell.seq + 1) above).1).map HeldRec.buffer
          lost := lost } ∧ (h.buffer.cell.seq ≠ c.nes → lost = true) := by
  have next : ∀ k, 2 * above.length + 1 ≤ k → _ := fun k hk =>
    Ctx.settleRun_running (p := p) (now := now) above k (c.passRec h above) hs rfl rfl (c.passRec_history h above) hk rfl
  obtain ⟨fuel, rfl⟩ : ∃ k, fuel = k + 1 := ⟨fuel - 1, by omega⟩
  have hhold : (c.passRec h above).applicableHold p = c.applicableHold p := rfl
  have hnes : (c.passRec h above).nes = h.buffer.cell.seq + 1 := rfl
  by_cases hn : h.buffer.cell.seq = c.nes
  · obtain ⟨lost, e⟩ := next fuel (by omega)
    rw [hhold, hnes, Ctx.ran_passRec] at e
    refine ⟨lost, ?_, fun h => absurd hn h⟩
    rw [Ctx.settleRun, Ctx.micro_release hs hh hn]
    simp only [Ctx.releaseRec_eq_passRec above hn, e, List.map_cons]
  · obtain ⟨hg, hd⟩ := go.resolve_left hn
    obtain ⟨k, rfl⟩ : ∃ k, fuel = k + 1 := ⟨fuel - 1, by omega⟩
    obtain ⟨lost, e⟩ := next k (by omega)
    rw [hhold, hnes, Ctx.ran_passRec] at e
    refine ⟨true, ?_, fun _ => rfl⟩
    rw [Ctx.settleRun, Ctx.micro_gap_past hs hh hn hg hd]
    have e' : ((c.giveUpGap h).releaseRec h above).settleRun p now k = _ := e
    simp only [Ctx.settleRun, Ctx.micro_release (c := c.giveUpGap h) hs hh rfl, e', List.map_cons, Bool.true_or]

/-- The same of the settling of a flow, its cells queued. -/
theorem Ctx.settle_leaves (hs : c.state = .running) (hh : c.held = h :: above)
    (go : h.buffer.cell.seq = c.nes ∨
      c.gapDeadline ≠ some (deadlineAt (c.applicableHold (Params.ofEntry e)) h.buffer.stamp) ∧
        c.applicableHold (Params.ofEntry e) ≤ ticksSince now h.buffer.stamp)
    (hhold : c.applicableHold (Params.ofEntry e) = hold) :
    (Ctx.settle e now c).1 = c.afterRun e hold (h :: (splitRun hold now (h.buffer.cell.seq + 1) above).1)
        (splitRun hold now (h.buffer.cell.seq + 1) above).2 ∧
      (h.buffer.cell.seq ≠ c.nes → (Ctx.settle e now c).2 = true) := by
  subst hhold
  obtain ⟨lost, er, hl⟩ := Ctx.settleRun_leaves (now := now) (fuel := c.settleFuel) hs hh go
    (by rw [Ctx.settleFuel, hh, List.length_cons]; omega)
  unfold Ctx.settle
  rw [er]
  exact ⟨Ctx.ran_enqueueAll e _ _ _ c, hl⟩

theorem Ctx.endSeeding_cons (hh : c.held = h :: above) : c.endSeeding = { c with
    state := .running, nes := h.buffer.cell.seq, seedingStamp := none, seedingDeadline := none, gapDeadline := none } := by
  unfold Ctx.endSeeding
  rw [hh]

theorem Ctx.endSeeding_nil (hh : c.held = []) : c.endSeeding = { c with
    state := .unseeded, seedingStamp := none, seedingDeadline := none } := by
  unfold Ctx.endSeeding
  rw [hh]

/-- The end of a seeding that is past and holds nothing (R30). -/
theorem Ctx.settle_seedingEmpties {stamp : Time} (hs : c.state = .seeding) (hst : c.seedingStamp = some stamp)
    (hh : c.held = []) (hg : c.seedingDeadline ≠ some (deadlineAt (c.applicableHold (Params.ofEntry e)) stamp))
    (hd : c.applicableHold (Params.ofEntry e) ≤ ticksSince now stamp) : Ctx.settle e now c = (c.endSeeding, false) := by
  have hi : c.endSeeding.micro (Params.ofEntry e) now = .stay c.endSeeding := by
    rw [Ctx.endSeeding_nil hh]
    exact Ctx.micro_idle _ _ (by simp) (by simp)
  unfold Ctx.settle Ctx.settleFuel
  rw [hh, List.length_nil, Ctx.settleRun, Ctx.micro_seeding_past hs hst hg hd]
  simp only [Ctx.settleRun_stay hi]
  rfl

/-- The end of a seeding that is past releases from the lowest record (R30). -/
theorem Ctx.settle_seedingLeaves {stamp : Time} (hs : c.state = .seeding) (hst : c.seedingStamp = some stamp)
    (hh : c.held = h :: above) (hg : c.seedingDeadline ≠ some (deadlineAt (c.applicableHold (Params.ofEntry e)) stamp))
    (hd : c.applicableHold (Params.ofEntry e) ≤ ticksSince now stamp)
    (hhold : c.applicableHold (Params.ofEntry e) = hold) :
    (Ctx.settle e now c).1 = c.endSeeding.afterRun e hold (h :: (splitRun hold now (h.buffer.cell.seq + 1) above).1)
        (splitRun hold now (h.buffer.cell.seq + 1) above).2 := by
  subst hhold
  have he := Ctx.endSeeding_cons hh
  obtain ⟨lost, er, -⟩ := Ctx.settleRun_leaves (p := Params.ofEntry e) (now := now) (fuel := 2 * c.held.length + 1)
    (c := c.endSeeding) (h := h) (above := above) (by rw [he]) (by rw [he, hh]) (.inl (by rw [he]))
    (by rw [hh, List.length_cons]; omega)
  have hhold : c.endSeeding.applicableHold (Params.ofEntry e) = c.applicableHold (Params.ofEntry e) := by rw [he]; rfl
  rw [hhold] at er
  unfold Ctx.settle Ctx.settleFuel
  rw [Ctx.settleRun, Ctx.micro_seeding_past hs hst hg hd]
  simp only [er]
  exact Ctx.ran_enqueueAll e _ _ _ c.endSeeding

/-- What `splitRun` takes from above a released record is what the statements call a release from it. -/
theorem Ctx.releasesFrom_splitRun {d : Ctx}
    (hd : d = c.afterRun e hold (h :: (splitRun hold now (h.buffer.cell.seq + 1) above).1)
      (splitRun hold now (h.buffer.cell.seq + 1) above).2) : c.releasesFrom e hold now h above d := by
  refine ⟨_, _, splitRun_append (h.buffer.cell.seq + 1) above, hd, ?_, fun r hr => ?_⟩
  · exact splitRun_follows _ above h rfl
  · obtain ⟨h1, h2⟩ := splitRun_waits _ above r hr
    refine ⟨fun e' => h1 (e'.trans ?_), h2⟩
    rw [hd]
    exact nesBehind_cons c.nes h _

/-- What settling leaves of any context, as the statements say it. -/
theorem Ctx.settle_settlesTo {loss : Prop} (hhold : c.applicableHold (Params.ofEntry e) = hold)
    (hloss : (Ctx.settle e now c).2 = true → loss) : c.settlesTo e hold now loss (Ctx.settle e now c).1 := by
  refine ⟨fun hs hh => ?_, fun h above hs hh hn => ⟨fun hw => ?_, fun hg hd => ?_⟩,
    fun stamp hs hst => ⟨fun hw => ?_, fun hg hd => ⟨fun hh => ?_, fun h above hh => ?_⟩⟩⟩
  · rw [Ctx.settle_stay (Ctx.micro_running_nil hs hh)]
  · rw [Ctx.settle_stay (Ctx.micro_gap_waits hs hh hn (by rw [hhold]; exact hw)), hhold]
    rfl
  · obtain ⟨e1, hl⟩ := Ctx.settle_leaves hs hh (.inr ⟨by rw [hhold]; exact hg, by rw [hhold]; exact hd⟩) hhold
    exact ⟨Ctx.releasesFrom_splitRun e1, hloss (hl hn)⟩
  · rw [Ctx.settle_stay (Ctx.micro_seeding_waits hs hst (by rw [hhold]; exact hw)), hhold]
    rfl
  · rw [Ctx.settle_seedingEmpties hs hst hh (by rw [hhold]; exact hg) (by rw [hhold]; exact hd), Ctx.endSeeding_nil hh]
  · have e1 := Ctx.settle_seedingLeaves hs hst hh (by rw [hhold]; exact hg) (by rw [hhold]; exact hd) hhold
    exact Ctx.releasesFrom_splitRun (e1.trans (by rw [Ctx.endSeeding_cons hh]; rfl))

end

end Sys2Proof.Machine
end

section
/-! PROOFS. A good cell handed to a flow (R14, R25, R51, R70, R73): what the row leaves, in terms of the judgement and of
settling. -/

namespace Sys2Proof.Machine

open Sys2Proof

/-! ## What a change of one flow leaves -/

/-- Two changes of one flow in turn, the second of which writes no other ring either. -/
theorem State.onlyFlow_trans {n : Index} {s t u : State} (h : State.onlyFlow n s t) (h' : State.onlyFlow n t u)
    (hr' : ∀ k, k ≠ (s.flow n).servingClass → u.ring k = t.ring k) : State.onlyFlow n s u := by
  obtain ⟨e, hf, hr, hn, hl⟩ := h
  obtain ⟨e', hf', -, hn', hl'⟩ := h'
  refine ⟨?_, fun k hk => (hf' k hk).trans (hf k hk), fun k hk => (hr' k hk).trans (hr k hk), hn' ∘ hn,
    fun k => hl' k ∘ hl k⟩
  rw [e] at e'
  exact e'

theorem State.onlyFlow_onlyAlarms {n : Index} {s t : State} (h : s.onlyAlarms t) : State.onlyFlow n s t := by
  obtain ⟨e, hn, hl⟩ := h
  refine ⟨?_, fun k _ => by rw [e]; rfl, fun k _ => by rw [e]; rfl, hn, hl⟩
  rw [e]

/-- A context put in place of another of its class changes its flow and the ring of that class (R84). -/
theorem State.onlyFlow_putFlow {n : Index} {c : Ctx} {s : State} (hc : c.servingClass = (s.flow n).servingClass) :
    State.onlyFlow n s (s.putFlow n c) := by
  refine ⟨?_, fun k hk => State.flow_putFlow_ne hk c s, fun k hk => State.ring_putFlow_ne (by rw [hc]; exact hk) s,
    fun h => ?_, fun k h => ?_⟩
  · unfold State.putFlow
    split <;> rfl
  · unfold State.putFlow
    split <;> exact h
  · unfold State.putFlow
    split <;> exact h

theorem Ctx.settle_servingClass (e : Entry) (now : Time) (c : Ctx) :
    (Ctx.settle e now c).1.servingClass = c.servingClass := by
  obtain ⟨run, h⟩ := Ctx.settle_released e now c
  exact h.servingClass

theorem State.onlyFlow_settleFlow {n : Index} {c : Ctx} {s : State} (hc : c.servingClass = (s.flow n).servingClass) :
    State.onlyFlow n s (s.settleFlow n c) := by
  have hp := State.onlyFlow_putFlow (c := (Ctx.settle (s.entry n) s.timeBase c).1)
    ((Ctx.settle_servingClass (s.entry n) s.timeBase c).trans hc)
  have ha := State.settleFlow_onlyAlarms n c s
  exact State.onlyFlow_trans hp (State.onlyFlow_onlyAlarms ha) (fun k _ => by rw [ha.1]; rfl)

/-- LOSS has latched where settling gave a gap up (R59). -/
theorem State.settleFlow_loss {n : Index} {c : Ctx} {s : State} (h : (Ctx.settle (s.entry n) s.timeBase c).2 = true) :
    hasKind (s.settleFlow n c).alarms.latched .loss = true := by
  rw [State.settleFlow_eq, if_pos h, State.latch_latched]
  simp


/-- The rings that writing a context leaves hang on the flows and the rings alone. -/
theorem State.putFlow_sched_of {n : Index} {c : Ctx} {s t : State} (hf : t.flows = s.flows) (hs : t.sched = s.sched) :
    (t.putFlow n c).sched = (s.putFlow n c).sched := by
  unfold State.putFlow
  rw [State.flow_of_flows hf]
  split <;> simp [State.joinRing, State.setRing, State.setFlow, State.ring, hs]

/-- Where the queue is written as it was, no ring is. -/
theorem State.putFlow_sched_same {n : Index} {c : Ctx} {s : State} (hq : c.queue = (s.flow n).queue) :
    (s.putFlow n c).sched = s.sched := by
  unfold State.putFlow
  rw [hq]
  simp

/-! ## An arrival -/

/-- The judgement of an arrival for a flow. -/
def State.judged (n : Index) (b : Buffer) (s : State) : Judged :=
  (s.flow n).judge (Params.ofEntry (s.entry n)) s.tables.settings.skewTicks s.pool.free b

theorem State.moveBuffers_onlyAlarms (j : Judged) (s : State) :
    State.onlyAlarms { s with pool := (s.moveBuffers j).pool } (s.moveBuffers j) := by
  obtain ⟨e, hn, hl⟩ := State.moveBuffers_onlyMerge j s
  obtain ⟨hf, hm, hs, -⟩ := State.moveBuffers_keeps j s
  refine ⟨?_, hn, hl⟩
  rw [hf, hm, hs] at e
  exact e

/-- What an arrival leaves, by its judgement: the flow's context, the pool, the events, and nothing else (R25, R51). -/
theorem State.arriveFlow_leaves {n : Index} {b : Buffer} {s : State} (hl : s.flows.length = 128) :
    (s.arriveFlow n b).flow n = (Ctx.settle (s.entry n) s.timeBase (s.markArrival b (s.judged n b))).1 ∧
      (s.arriveFlow n b).pool = (s.moveBuffers (s.judged n b)).pool ∧
      (∀ k ∈ (s.judged n b).events, hasKind (s.arriveFlow n b).alarms.latched k = true) ∧
      ((Ctx.settle (s.entry n) s.timeBase (s.markArrival b (s.judged n b))).2 = true →
        hasKind (s.arriveFlow n b).alarms.latched .loss = true) ∧
      (s.arriveFlow n b).sched = (s.putFlow n (Ctx.settle (s.entry n) s.timeBase (s.markArrival b (s.judged n b))).1).sched ∧
      State.onlyFlow n { s with pool := (s.arriveFlow n b).pool } (s.arriveFlow n b) := by
  have hj : Ctx.JudgedAs (Params.ofEntry (s.entry n)) s.pool.free b (s.flow n) (s.judged n b) :=
    Ctx.judge_judgedAs _ s.tables.settings.skewTicks _ _ _
  have ht : s.arriveFlow n b = (State.settleFlow n (s.markArrival b (s.judged n b))
      ((s.moveBuffers (s.judged n b)).latchAll (s.judged n b).events)).reportFlows := rfl
  rw [ht]
  generalize s.judged n b = j at hj
  have hq := State.sameQueue_markArrival hj
  have ha := State.onlyAlarms_trans (State.moveBuffers_onlyAlarms j s) (State.latchAll_onlyAlarms j.events _)
  generalize hu : (s.moveBuffers j).latchAll j.events = u at ha
  have huf : u.flows = s.flows := by rw [← hu]; simp
  have hus : u.sched = s.sched := by rw [← hu]; simp
  have hue : u.entry n = s.entry n := by rw [← hu]; simp [State.entry]
  have hut : u.timeBase = s.timeBase := by rw [← hu]; simp
  have hun : u.flow n = s.flow n := State.flow_of_flows huf n
  have hev : ∀ k ∈ j.events, hasKind u.alarms.latched k = true := fun k hk => by
    rw [← hu, State.latchAll_latched]; simp [hk]
  have hr := State.reportFlows_onlyAlarms (u.settleFlow n (s.markArrival b j))
  have hs := State.onlyFlow_settleFlow (s := u) (n := n) (c := s.markArrival b j) (by rw [hun]; exact hq.2)
  have hp : (u.settleFlow n (s.markArrival b j)).reportFlows.pool = (s.moveBuffers j).pool := by rw [← hu]; simp
  refine ⟨?_, hp, fun k hk => hr.2.2 k (hs.2.2.2.2 k (hev k hk)), fun h => hr.2.2 _ ?_, ?_, ?_⟩
  · rw [State.flow_of_flows (s := u.settleFlow n (s.markArrival b j)) (by simp),
      State.flow_settleFlow_self (by rw [huf, hl]), hue, hut]
  · exact State.settleFlow_loss (by rw [hue, hut]; exact h)
  · have he : (u.settleFlow n (s.markArrival b j)).reportFlows.sched = (u.settleFlow n (s.markArrival b j)).sched := by simp
    rw [he, State.settleFlow_sched, hue, hut]
    exact State.putFlow_sched_of huf hus
  · rw [hp]
    have h1 := State.onlyFlow_onlyAlarms (n := n) ha
    have h2 := State.onlyFlow_trans h1 hs (fun k hk => hs.2.2.1 k (by rw [hun]; exact hk))
    exact State.onlyFlow_trans h2 (State.onlyFlow_onlyAlarms hr) (fun k _ => by rw [hr.1]; rfl)


theorem State.moveBuffers_pool (j : Judged) (s : State) :
    (s.moveBuffers j).pool = if j.disp = .accepted then
      { free := s.pool.free + j.flushed - 1, lowWater := min s.pool.lowWater (s.pool.free + j.flushed - 1) }
      else { s.pool with free := s.pool.free + j.flushed } := by
  unfold State.moveBuffers
  split <;> simp

/-- The context the arrival leaves to settle: its path marked where the disposition marks (R51). -/
def Judged.marked (p : Path) (r : Presence) (j : Judged) : Ctx := if j.disp.marks then j.ctx.setPres p r else j.ctx

theorem State.markArrival_up {b : Buffer} {s : State} (j : Judged) (h : (s.rx b.path).state = .up) :
    s.markArrival b j = j.marked b.path (s.markedBy b.stamp) := by
  unfold State.markArrival Judged.marked
  rw [h, decide_eq_true rfl, Bool.and_true]
  rfl

theorem State.markArrival_down {b : Buffer} {s : State} (j : Judged) (h : (s.rx b.path).state ≠ .up) :
    s.markArrival b j = j.ctx := by
  unfold State.markArrival
  rw [decide_eq_false h, Bool.and_false]
  rfl

/-- CELL_LAST_BYTE of a good cell for a flow: what it leaves, by its judgement. -/
theorem arrival_leaves {s : State} {p : Path} {h : Header} {payload : List Byte} {check : Check} {n : Index} {d : Time}
    {j : Judged} (hr : s.reachesFlow p h payload check n)
    (hj : (s.flow n).judge (Params.ofEntry (s.entry n)) s.tables.settings.skewTicks s.pool.free
      (receivedBuffer p h payload check (s.advance d).timeBase) = j) :
    ∃ t : State, exec (.cellLastByte p payload (checkBytes check) d) s = .next t ∧
      t.flow n = (Ctx.settle (s.entry n) (s.advance d).timeBase (j.marked p (s.markedBy (s.advance d).timeBase))).1 ∧
      t.pool = (if j.disp = .accepted then
        { free := s.pool.free + j.flushed - 1, lowWater := min s.pool.lowWater (s.pool.free + j.flushed - 1) }
        else { s.pool with free := s.pool.free + j.flushed }) ∧
      (∀ k ∈ j.events, hasKind t.alarms.latched k = true) ∧
      ((Ctx.settle (s.entry n) (s.advance d).timeBase (j.marked p (s.markedBy (s.advance d).timeBase))).2 = true →
        hasKind t.alarms.latched .loss = true) ∧
      t.sched = (s.putFlow n
        (Ctx.settle (s.entry n) (s.advance d).timeBase (j.marked p (s.markedBy (s.advance d).timeBase))).1).sched ∧
      State.onlyFlow n { (s.advance d).setRx p { s.rx p with reception := none } with pool := t.pool } t := by
  obtain ⟨-, hrx, hl, hp, hm, hf, hb, hv, hi, hu⟩ := hr
  generalize hs1 : (s.advance d).setRx p { s.rx p with reception := none } = s1
  have htab : s1.tables = s.tables := by rw [← hs1]; simp
  have hflows : s1.flows = s.flows := by rw [← hs1]; simp
  have hflow : s1.flow n = s.flow n := State.flow_of_flows hflows n
  have hentry : s1.entry n = s.entry n := congrArg (fun t : Tables => t.active.entry n) htab
  have htime : s1.timeBase = (s.advance d).timeBase := by rw [← hs1]; simp
  have hpool : s1.pool = s.pool := by rw [← hs1]; simp
  have hsched : s1.sched = s.sched := by rw [← hs1]; simp
  have hup : (s1.rx p).state = .up := by rw [← hs1, State.setRx_rx]; exact congrArg Receiver.state hrx
  have hlook : s1.tables.active.lookup h.label = some n := by rw [htab]; exact Bank.lookup_sound hb hv hi
  have hclass : s1.classify (receivedBuffer p h payload check (s.advance d).timeBase)
      = s1.arriveFlow n (receivedBuffer p h payload check (s.advance d).timeBase) :=
    State.classify_used hm hlook (by rw [hentry]; exact hu)
  have hexec : exec (.cellLastByte p payload (checkBytes check) d) s
      = .next (s1.arriveFlow n (receivedBuffer p h payload check (s.advance d).timeBase)) := by
    rw [exec_cellLastByte_good (check := checkBytes check) d (congrArg Receiver.reception hrx) hl
      (by rw [checkOf_checkBytes]; exact hp), checkOf_checkBytes, hs1, hclass]
  have hjudged : s1.judged n (receivedBuffer p h payload check (s.advance d).timeBase) = j := by
    unfold State.judged
    rw [hflow, hentry, htab, hpool]
    exact hj
  have hmark : s1.markArrival (receivedBuffer p h payload check (s.advance d).timeBase) j
      = j.marked p (s.markedBy (s.advance d).timeBase) := by
    rw [State.markArrival_up j hup]
    unfold State.markedBy
    rw [htab]
    rfl
  obtain ⟨h1, h2, h3, h4, h5, h6⟩ := State.arriveFlow_leaves (n := n)
    (b := receivedBuffer p h payload check (s.advance d).timeBase) (s := s1) (by rw [hflows, hf])
  rw [hjudged] at h1 h2 h3 h4 h5
  rw [hmark, hentry, htime] at h1 h4 h5
  rw [State.moveBuffers_pool, hpool] at h2
  rw [State.putFlow_sched_of hflows hsched] at h5
  exact ⟨_, hexec, h1, h2, h3, h4, h5, h6⟩

end Sys2Proof.Machine
end

section
/-! PROOFS. The statements about arrivals in flow contexts (R25 to R41, R51, R62, R70): how the judgement answers by distance,
and then the row. -/

namespace Sys2Proof.Machine

open Sys2Proof

/-! ## How the judgement answers -/

section
variable {p : Params} {limit free : Nat} {b : Buffer} {c : Ctx}

theorem findHeld_eq_none {held : List HeldRec} {seq : Seq} (h : ∀ r ∈ held, r.buffer.cell.seq ≠ seq) :
    findHeld held seq = none := by
  unfold findHeld
  rw [List.find?_eq_none]
  intro r hr
  simpa using h r hr

theorem findHeld_exists {held : List HeldRec} {seq : Seq} (h : ∃ r ∈ held, r.buffer.cell.seq = seq) :
    ∃ r, findHeld held seq = some r := by
  obtain ⟨r, hr, hs⟩ := h
  cases hf : findHeld held seq with
  | some q => exact ⟨q, rfl⟩
  | none => exact absurd hs (findHeld_none hf r hr)

theorem Ctx.judge_held {r : HeldRec} (hs : c.state = .running ∨ c.state = .seeding)
    (hd : seqDist c.nes b.cell.seq < p.window) (hf : findHeld c.held b.cell.seq = some r) :
    c.judge p limit free b = c.duplicateOfHeld limit r b := by
  obtain hs | hs := hs <;> simp [Ctx.judge, hs, Ctx.judgeRunning, Ctx.judgeSeeding, hd, hf]

theorem Ctx.judge_new (hs : c.state = .running ∨ c.state = .seeding) (hd : seqDist c.nes b.cell.seq < p.window)
    (hn : ∀ r ∈ c.held, r.buffer.cell.seq ≠ b.cell.seq) :
    c.judge p limit free b = c.tryAccept p free (Ctx.hold b) := by
  have hf := findHeld_eq_none hn
  obtain hs | hs := hs <;> simp [Ctx.judge, hs, Ctx.judgeRunning, Ctx.judgeSeeding, hd, hf]

theorem Ctx.judge_first (hs : c.state = .unseeded) : c.judge p limit free b = c.tryAccept p free (Ctx.seed p b) := by
  simp [Ctx.judge, hs]

theorem Ctx.judge_far (hs : c.state = .running) (hw : p.window ≤ seqDist c.nes b.cell.seq)
    (hd : seqDist c.nes b.cell.seq < 32768) : c.judge p limit free b = c.judgeFarAhead p free b := by
  simp [Ctx.judge, hs, Ctx.judgeRunning, Nat.not_lt.mpr hw, hd]

theorem Ctx.judge_behind (hs : c.state = .running) (hw : p.window ≤ seqDist c.nes b.cell.seq)
    (hd : 32768 ≤ seqDist c.nes b.cell.seq) :
    c.judge p limit free b = c.judgeBehind limit (65536 - seqDist c.nes b.cell.seq) b := by
  simp [Ctx.judge, hs, Ctx.judgeRunning, Nat.not_lt.mpr hw, Nat.not_lt.mpr hd]

theorem Ctx.judge_seedingOut (hs : c.state = .seeding) (hw : p.window ≤ seqDist c.nes b.cell.seq) :
    c.judge p limit free b = { ctx := c.countOutOfWindow, disp := .outOfWindow, flushed := 0, events := [] } := by
  simp [Ctx.judge, hs, Ctx.judgeSeeding, Nat.not_lt.mpr hw]

theorem Ctx.tryAccept_quota {take : Ctx → Ctx} (h : p.quota ≤ c.occupancy) : c.tryAccept p free take =
    { ctx := { c with counters := { c.counters with quotaDrop := c.counters.quotaDrop + 1 } }
      disp := .quotaDrop, flushed := 0, events := [] } := by
  simp [Ctx.tryAccept, acceptanceTest, h, Ctx.countRefusal]

theorem Ctx.tryAccept_empty {take : Ctx → Ctx} (h : c.occupancy < p.quota) (hf : free = 0) : c.tryAccept p free take =
    { ctx := { c with counters := { c.counters with noBuffer := c.counters.noBuffer + 1 } }
      disp := .noBuffer, flushed := 0, events := [] } := by
  simp [Ctx.tryAccept, acceptanceTest, Nat.not_le.mpr h, hf, Ctx.countRefusal]

theorem Ctx.tryAccept_accepts {take : Ctx → Ctx} (h : c.occupancy < p.quota) (hf : free ≠ 0) :
    c.tryAccept p free take = { ctx := take c, disp := .accepted, flushed := 0, events := [] } := by
  simp [Ctx.tryAccept, acceptanceTest, Nat.not_le.mpr h, hf]

/-- LATE counts and changes nothing else (R36). -/
def Ctx.judgedLate (c : Ctx) : Judged :=
  { ctx := { c with counters := { c.counters with late := c.counters.late + 1 } }
    disp := .late, flushed := 0, events := [] }

theorem historyAt_eq (history : List HistPos) (behind : Nat) :
    historyAt history behind = (history[behind - 1]?).getD .none := by
  unfold historyAt
  rw [List.getD_eq_getElem?_getD]

/-- 1 to 64 behind NES, an EMITTED position makes a duplicate (R36, R37). -/
theorem Ctx.judgeBehind_emitted {behind : Nat} {check : Check} {path : Path} {stamp : Time} {seen : Bool}
    (hb : behind ≤ 64) (hh : c.history[behind - 1]? = some (.emitted check path stamp seen)) :
    c.judgeBehind limit behind b = Ctx.countDuplicate limit check path stamp (!seen) b
      { c with history := c.history.set (behind - 1) (.emitted check path stamp true) } := by
  have he : (if behind ≤ Config.historyPlaces then historyAt c.history behind else HistPos.none)
      = .emitted check path stamp seen := by
    have hb' : behind ≤ Config.historyPlaces := hb
    rw [if_pos hb', historyAt_eq, hh]
    rfl
  unfold Ctx.judgeBehind
  rw [he]

/-- Any other position behind NES makes the cell LATE (R36). -/
theorem Ctx.judgeBehind_late {behind : Nat}
    (hh : 64 < behind ∨ ∀ k q st seen, c.history[behind - 1]? ≠ some (.emitted k q st seen)) :
    c.judgeBehind limit behind b = c.judgedLate := by
  unfold Ctx.judgeBehind
  split
  · next check path stamp seen he =>
    exfalso
    obtain hb | hn := hh
    · have hb' : ¬ behind ≤ Config.historyPlaces := Nat.not_le.mpr hb
      rw [if_neg hb'] at he
      cases he
    · split at he
      · rw [historyAt_eq] at he
        cases hg : c.history[behind - 1]? with
        | none => rw [hg] at he; cases he
        | some pos => rw [hg] at he; exact hn check path stamp seen (hg.trans (congrArg some he))
      · cases he
  · rfl

/-- Below the eighth in a row a cell window or more ahead is out of the window (R34). -/
theorem Ctx.judgeFarAhead_below (h : c.runCount < 7) : c.judgeFarAhead p free b =
    { ctx := { c with
        runCount := c.runCount + 1
        counters := { c.counters with outOfWindow := c.counters.outOfWindow + 1 } }
      disp := .outOfWindow, flushed := 0, events := [] } := by
  unfold Ctx.judgeFarAhead
  rw [if_pos (by simp only [Config.resyncRun]; omega)]
  rfl

/-- A record joins the held set between those nearer NES and those further. -/
theorem insertHeld_between {nes : Seq} {h : HeldRec} {above : List HeldRec}
    (ha : ∀ r ∈ above, seqDist nes h.buffer.cell.seq < seqDist nes r.buffer.cell.seq) :
    ∀ {below : List HeldRec}, (∀ r ∈ below, seqDist nes r.buffer.cell.seq < seqDist nes h.buffer.cell.seq) →
      insertHeld nes h (below ++ above) = below ++ h :: above
  | [], _ => by
    cases above with
    | nil => rfl
    | cons r above =>
      unfold insertHeld
      exact if_pos (ha r List.mem_cons_self)
  | x :: below, hb => by
    have hx := hb x List.mem_cons_self
    rw [List.cons_append, insertHeld, if_neg (Nat.not_lt.mpr (Nat.le_of_lt hx)),
      insertHeld_between ha (fun r hr => hb r (List.mem_cons_of_mem _ hr))]
    rfl

/-- A cell in range that no record holds joins the held set in its order (R28, R33). -/
theorem Ctx.judge_accepts {below above : List HeldRec} (hs : c.state = .running ∨ c.state = .seeding)
    (hd : seqDist c.nes b.cell.seq < p.window) (hh : c.held = below ++ above)
    (hb : ∀ h ∈ below, seqDist c.nes h.buffer.cell.seq < seqDist c.nes b.cell.seq)
    (ha : ∀ h ∈ above, seqDist c.nes b.cell.seq < seqDist c.nes h.buffer.cell.seq)
    (hq : c.occupancy < p.quota) (hf : free ≠ 0) : c.judge p limit free b =
      { ctx := { c with held := below ++ { buffer := b, otherSeen := false } :: above, runCount := 0 }
        disp := .accepted, flushed := 0, events := [] } := by
  have hn : ∀ r ∈ c.held, r.buffer.cell.seq ≠ b.cell.seq := fun r hr e => by
    rw [hh] at hr
    obtain hr | hr := List.mem_append.mp hr
    · exact absurd (e ▸ hb r hr) (Nat.lt_irrefl _)
    · exact absurd (e ▸ ha r hr) (Nat.lt_irrefl _)
  rw [Ctx.judge_new hs hd hn, Ctx.tryAccept_accepts hq hf]
  unfold Ctx.hold
  rw [hh, insertHeld_between (h := { buffer := b, otherSeen := false }) ha hb]

end

/-! ## Refused arrivals -/

/-- A context at rest stays as it is, whatever its counters and its run count. -/
theorem Ctx.settle_rests {e : Entry} {c : Ctx} (h : c.atRest (Params.ofEntry e)) (now : Time) (k : FlowCounters)
    (runs : Nat) : Ctx.settle e now { c with counters := k, runCount := runs }
      = ({ c with counters := k, runCount := runs }, false) :=
  Ctx.settle_stay ((Ctx.settled_iff _ now _).mpr (h.of_eq rfl rfl rfl rfl rfl rfl rfl))

/-- A judgement that only counts leaves the flow with that count, and nothing else (R26, R51). -/
theorem arrival_counted {s : State} {p : Path} {h : Header} {payload : List Byte} {check : Check} {n : Index} {d : Time}
    {disp : Disposition} {k : FlowCounters} {runs : Nat} (hr : s.reachesFlow p h payload check n)
    (hset : (s.flow n).settled (Params.ofEntry (s.entry n)) s.timeBase) (hm : disp.marks = false)
    (hj : (s.flow n).judge (Params.ofEntry (s.entry n)) s.tables.settings.skewTicks s.pool.free
      (receivedBuffer p h payload check (s.advance d).timeBase)
        = { ctx := { s.flow n with counters := k, runCount := runs }, disp := disp, flushed := 0, events := [] }) :
    ∃ t : State, exec (.cellLastByte p payload (checkBytes check) d) s = .next t ∧
      t.flow n = { s.flow n with counters := k, runCount := runs } ∧ t.sched = s.sched ∧
      State.onlyFlow n ((s.advance d).setRx p { s.rx p with reception := none }) t := by
  obtain ⟨t, hx, hf, hp, -, -, hs, ho⟩ := arrival_leaves hr hj
  have hrest := (Ctx.settled_iff _ _ _).mp hset
  have hmark : ∀ r : Presence,
      Judged.marked p r { ctx := { s.flow n with counters := k, runCount := runs }, disp := disp, flushed := 0, events := [] }
        = { s.flow n with counters := k, runCount := runs } := fun r => by
    unfold Judged.marked
    rw [hm]
    rfl
  have hd : disp ≠ .accepted := by rintro rfl; cases hm
  rw [hmark, Ctx.settle_rests hrest] at hf hs
  rw [if_neg hd] at hp
  have hpool : t.pool = ((s.advance d).setRx p { s.rx p with reception := none }).pool := by
    rw [hp]; simp
  rw [hpool] at ho
  exact ⟨t, hx, hf, hs.trans (State.putFlow_sched_same rfl), ho⟩

/-- Settles O14: the judgement only counts, and a context at rest stays at rest whatever its counters. -/
theorem refusedArrivalChangesOneCounter : Obligations.RefusedArrivalChangesOneCounter := by
  refine ⟨fun p limit free b c hs => ?_, ?_⟩
  · have hj : ∃ take, c.judge p limit free b = c.tryAccept p free take := by
      obtain hs | ⟨hs, hd, hn⟩ := hs
      · exact ⟨_, Ctx.judge_first hs⟩
      · exact ⟨_, Ctx.judge_new hs.symm hd hn⟩
    obtain ⟨take, hj⟩ := hj
    rw [hj]
    exact ⟨Ctx.tryAccept_quota, Ctx.tryAccept_empty⟩
  · intro s p h payload check d n hr hset e c far wanted leaves
    have tried : wanted → ∃ take, c.judge (Params.ofEntry e) s.tables.settings.skewTicks s.pool.free
        (receivedBuffer p h payload check (s.advance d).timeBase) = c.tryAccept (Params.ofEntry e) s.pool.free take := by
      rintro (hs | ⟨hs, hd, hn⟩)
      · exact ⟨_, Ctx.judge_first hs⟩
      · exact ⟨_, Ctx.judge_new hs.symm hd hn⟩
    have hwin : e.window.size ≤ 256 := e.window.size_bounds.2
    refine ⟨fun hw hq => ?_, fun hw hq hf => ?_, fun hs hd hh => ?_, fun hs hw hd hc => ?_, fun hs hw => ?_⟩
    · obtain ⟨take, hj⟩ := tried hw
      exact arrival_counted hr hset (by rfl) (hj.trans (Ctx.tryAccept_quota hq))
    · obtain ⟨take, hj⟩ := tried hw
      exact arrival_counted hr hset (by rfl) (hj.trans (Ctx.tryAccept_empty hq hf))
    · exact arrival_counted hr hset (by rfl) ((Ctx.judge_behind hs (Nat.le_trans hwin (Nat.le_trans (by decide) hd)) hd).trans
        (Ctx.judgeBehind_late hh.symm))
    · exact arrival_counted hr hset (by rfl) ((Ctx.judge_far hs hw hd).trans (Ctx.judgeFarAhead_below hc))
    · exact arrival_counted hr hset (by rfl) (Ctx.judge_seedingOut hs hw)

end Sys2Proof.Machine
end

section
/-! PROOFS. Arrivals that the acceptance test takes (R27, R32, R39, R51): the first of a flow and one at NES. -/

namespace Sys2Proof.Machine

open Sys2Proof

section
variable {p : Params} {now : Time} {c : Ctx} {stamp : Time} {e : Entry}

/-- In SEEDING a deadline that is not reached is set, and nothing else happens (R29). -/
theorem Ctx.settle_seedingWaits (hs : c.state = .seeding) (hh : c.seedingStamp = some stamp)
    (hw : ticksSince now stamp < c.applicableHold (Params.ofEntry e)) :
    Ctx.settle e now c
      = ({ c with seedingDeadline := some (deadlineAt (c.applicableHold (Params.ofEntry e)) stamp) }, false) :=
  Ctx.settle_stay (Ctx.micro_seeding_waits hs hh (.inr hw))

end

theorem ticksSince_self (t : Time) : ticksSince t t = 0 := by
  simp [ticksSince]

theorem Window.size_pos (w : Window) : 0 < w.size := Nat.lt_of_lt_of_le (by decide) w.size_bounds.1

/-- The disposition of an accepted cell marks its path (R51). -/
theorem Judged.marked_accepted (p : Path) (r : Presence) (c : Ctx) (flushed : Nat) (events : List AlarmKind) :
    Judged.marked p r { ctx := c, disp := .accepted, flushed := flushed, events := events } = c.setPres p r := rfl

/-- Settles O17: the first cell is accepted and seeds the context, whose deadline is not reached at its own stamp. -/
theorem firstArrivalSeedsTheFlow : Obligations.FirstArrivalSeedsTheFlow := by
  intro s p h payload check d n hph hrx hl hpay hm hf hb hv hi hu hs hq hfree now b marked hold hne
  have hj : (s.flow n).judge (Params.ofEntry (s.entry n)) s.tables.settings.skewTicks s.pool.free b
      = { ctx := Ctx.seed (Params.ofEntry (s.entry n)) b (s.flow n), disp := .accepted, flushed := 0, events := [] } :=
    (Ctx.judge_first hs).trans (Ctx.tryAccept_accepts hq hfree)
  obtain ⟨t, hx, hfl, hp, -, -, -, ho⟩ := arrival_leaves ⟨hph, hrx, hl, hpay, hm, hf, hb, hv, hi, hu⟩ hj
  have hhold : ((Ctx.seed (Params.ofEntry (s.entry n)) b (s.flow n)).setPres p (s.markedBy now)).applicableHold
      (Params.ofEntry (s.entry n)) = hold := by
    cases p <;> rfl
  rw [Judged.marked_accepted, Ctx.settle_seedingWaits (stamp := now) (by simp [Ctx.seed]) (by simp [Ctx.seed, b])
    (by rw [ticksSince_self, hhold]; exact Nat.pos_of_ne_zero hne), hhold] at hfl
  refine ⟨t, hx, hfl.trans ?_, hp, ho⟩
  cases p <;> rfl

/-- The release of a single record at NES (R39, R41). -/
theorem Ctx.afterRun_one {e : Entry} {hold : Nat} {h : HeldRec} {c : Ctx} (hn : h.buffer.cell.seq = c.nes) :
    c.afterRun e hold [h] [] = { c with
      nes := c.nes + 1
      held := []
      gapDeadline := none
      queue := c.queue ++ sentAs e c.renumber [h]
      renumber := if e.renumber then c.renumber + 1 else c.renumber
      history := (.emitted h.buffer.cell.payloadCheck h.buffer.path h.buffer.stamp h.otherSeen :: c.history).take 64
      counters := { c.counters with
        emitted := c.counters.emitted + 1
        acceptedA := if h.buffer.path = .a then c.counters.acceptedA + 1 else c.counters.acceptedA
        acceptedB := if h.buffer.path = .b then c.counters.acceptedB + 1 else c.counters.acceptedB } } := by
  unfold Ctx.afterRun
  cases hp : h.buffer.path <;> simp [hn, hp, gapsBelow, fates, seqDist_self]

/-- Settles O18: a cell at NES joins an empty held set and is released at once. -/
theorem arrivalAtNesIsReleased : Obligations.ArrivalAtNesIsReleased := by
  intro s p h payload check d n hph hrx hl hpay hm hf h8 hb hv hi hu hs hheld hseq hq hfree now c sent
  let b : Buffer := receivedBuffer p h payload check now
  have hd : seqDist c.nes b.cell.seq = 0 := by rw [← seqDist_self c.nes]; exact congrArg (seqDist c.nes) hseq
  have hj : c.judge (Params.ofEntry (s.entry n)) s.tables.settings.skewTicks s.pool.free b
      = { ctx := { c with held := [{ buffer := b, otherSeen := false }], runCount := 0 }
          disp := .accepted, flushed := 0, events := [] } :=
    Ctx.judge_accepts (below := []) (above := []) (.inl hs) (by rw [hd]; exact Window.size_pos _) hheld
      (by simp) (by simp) (by simpa [Ctx.occupancy, c, hheld] using (show _ < (Params.ofEntry (s.entry n)).quota from hq)) hfree
  obtain ⟨t, hx, hfl, hp, -, -, hsch, ho⟩ := arrival_leaves ⟨hph, hrx, hl, hpay, hm, hf, hb, hv, hi, hu⟩ hj
  rw [Judged.marked_accepted] at hfl hsch
  generalize hM : ({ c with held := [{ buffer := b, otherSeen := false }], runCount := 0 } : Ctx).setPres p (s.markedBy now)
    = M at hfl hsch
  have hset := (Ctx.settle_leaves (e := s.entry n) (now := now) (c := M) (h := { buffer := b, otherSeen := false })
    (above := []) (by rw [← hM]; simpa using hs) (by rw [← hM]; simp) (.inl (by rw [← hM]; exact hseq.trans (by simp [c]))) rfl).1
  have hseqM : b.cell.seq = M.nes := by rw [← hM]; exact hseq.trans (by simp [c])
  have hfl' : t.flow n = M.afterRun (s.entry n) (M.applicableHold (Params.ofEntry (s.entry n)))
      [{ buffer := b, otherSeen := false }] [] := hfl.trans hset
  rw [Ctx.afterRun_one hseqM] at hfl'
  refine ⟨t, hx, hfl'.trans ?_, ?_, hp, ho⟩
  · rw [← hM]
    cases p <;> simp [Ctx.setPres, sentAs, b, receivedBuffer, c, sent, hheld, State.markedBy]
  · have hring : t.ring c.servingClass = (s.putFlow n (t.flow n)).ring c.servingClass := by
      rw [hfl]
      exact congrArg (fun x : Scheduler => x.rings.getD c.servingClass.val []) hsch
    rw [hring, State.ring_putFlow h8, hfl', ← hM]
    simp [c, sentAs]

end Sys2Proof.Machine
end

section
/-! PROOFS. The eighth out-of-window arrival in a row (R34, R35): the context is emptied, and its trigger cell tested. -/

namespace Sys2Proof.Machine

open Sys2Proof

/-- The context a resync leaves before its trigger cell is tested (R35). -/
def Ctx.resynced (c : Ctx) : Ctx := c.countOutOfWindow.resyncEmptied

section
variable {p : Params} {limit free : Nat} {b : Buffer} {c : Ctx}

/-- The eighth in a row is judged as a resync's trigger cell (R34, R35). -/
theorem Ctx.judge_eighth (hs : c.state = .running) (hc : c.runCount = 7) (hw : p.window ≤ seqDist c.nes b.cell.seq)
    (hd : seqDist c.nes b.cell.seq < 32768) : c.judge p limit free b =
      { Ctx.tryAccept p (free + c.held.length) (Ctx.seed p b) c.resynced with
        flushed := c.held.length, events := [.resync] } := by
  rw [Ctx.judge_far hs hw hd]
  unfold Ctx.judgeFarAhead
  rw [if_neg (by rw [hc]; decide)]
  rfl

theorem Ctx.resynced_occupancy (c : Ctx) : c.resynced.occupancy = c.queue.length := Nat.zero_add _

end

/-- Settles O16: the emptied context is UNSEEDED and rests when the trigger cell is refused; accepted, the cell seeds it and
it settles. -/
theorem eighthOutOfWindowResyncs : Obligations.EighthOutOfWindowResyncs := by
  refine ⟨fun p limit free b c hs hc hw hd => ?_, ?_⟩
  · intro j
    have hj : j = { Ctx.tryAccept p (free + c.held.length) (Ctx.seed p b) c.resynced with
        flushed := c.held.length, events := [.resync] } := Ctx.judge_eighth hs hc hw hd
    rw [hj]
    refine ⟨rfl, rfl, fun hq => ?_, fun hq hf => ?_, fun hq hf => ?_⟩
    · rw [Ctx.tryAccept_quota (by rw [Ctx.resynced_occupancy]; exact hq)]
      exact ⟨rfl, rfl⟩
    · rw [Ctx.tryAccept_empty (by rw [Ctx.resynced_occupancy]; exact hq) hf]
      exact ⟨rfl, rfl⟩
    · rw [Ctx.tryAccept_accepts (by rw [Ctx.resynced_occupancy]; exact hq) (Nat.ne_of_gt hf)]
      exact ⟨rfl, rfl⟩
  · intro s p h payload check d n hr hs hc hw hd e c now b free base marked hold
    obtain ⟨t, hx, hfl, hp, hev, hloss, -, ho⟩ := arrival_leaves (d := d) hr (Ctx.judge_eighth hs hc hw hd)
    have rests : ∀ k : FlowCounters, Ctx.settle e now { base with counters := k } = ({ base with counters := k }, false) :=
      fun k => Ctx.settle_stay (Ctx.micro_idle _ _ (by simp [base]) (by simp [base]))
    refine ⟨t, hx, hev _ List.mem_cons_self, fun hq => ?_, fun hq hf => ?_, fun hq hf => ?_, ho⟩
    · rw [Ctx.tryAccept_quota (by rw [Ctx.resynced_occupancy]; exact hq)] at hfl hp
      exact ⟨hfl.trans (congrArg Prod.fst (rests _)), hp⟩
    · rw [Ctx.tryAccept_empty (by rw [Ctx.resynced_occupancy]; exact hq) hf] at hfl hp
      refine ⟨hfl.trans (congrArg Prod.fst (rests _)), hp.trans ?_⟩
      have hf' : s.pool.free + (s.flow n).held.length = s.pool.free := Nat.add_eq_left.mpr (Nat.add_eq_zero_iff.mp hf).2
      simp [hf']
    · rw [Ctx.tryAccept_accepts (by rw [Ctx.resynced_occupancy]; exact hq) (Nat.ne_of_gt hf)] at hfl hp hloss
      rw [Judged.marked_accepted] at hfl hloss
      refine ⟨?_, hp⟩
      rw [hfl]
      exact Ctx.settle_settlesTo rfl hloss

end Sys2Proof.Machine
end

section
/-! PROOFS. Duplicates (R37, R62): what the compare and the measurement count, and the row. -/

namespace Sys2Proof.Machine

open Sys2Proof

section
variable {p : Params} {limit free : Nat} {check : Check} {path : Path} {stamp : Time} {seen : Bool} {b : Buffer} {c : Ctx}

/-- A duplicate's counts: DUP of its path, MISMATCH and SKEW_EXCEEDED where they apply (R37, R62). -/
theorem Ctx.countDuplicate_counters : (c.countDuplicate limit check path stamp (!seen) b).ctx.counters = { c.counters with
      dupA := if b.path = .a then c.counters.dupA + 1 else c.counters.dupA
      dupB := if b.path = .b then c.counters.dupB + 1 else c.counters.dupB
      mismatch := if b.cell.payloadCheck = check then c.counters.mismatch else c.counters.mismatch + 1
      skewExceeded := if seen = false ∧ limit < (b.stamp - stamp).toNat then c.counters.skewExceeded + 1
                      else c.counters.skewExceeded } := by
  unfold Ctx.countDuplicate skewTicks ticksSince
  generalize (b.stamp - stamp).toNat = ticks
  cases b.path <;> cases seen <;> by_cases he : b.cell.payloadCheck = check <;> simp [FlowCounters.countDup, he]

theorem Ctx.mem_countDuplicate_events {k : AlarmKind} : k ∈ (c.countDuplicate limit check path stamp (!seen) b).events ↔
    k = .mismatch ∧ b.cell.payloadCheck ≠ check ∨ k = .skew ∧ seen = false ∧ limit < (b.stamp - stamp).toNat := by
  unfold Ctx.countDuplicate skewTicks ticksSince
  generalize (b.stamp - stamp).toNat = ticks
  cases seen <;> by_cases he : b.cell.payloadCheck = check <;> by_cases hl : limit < ticks <;> simp [he, hl]

theorem Ctx.countDuplicate_skew : (c.countDuplicate limit check path stamp (!seen) b).ctx.skew =
    (if seen = true then c.skew
      else { last := BitVec.ofNat 32 (min (b.stamp - stamp).toNat 4294967295),
             max := if c.skew.max < BitVec.ofNat 32 (min (b.stamp - stamp).toNat 4294967295)
               then BitVec.ofNat 32 (min (b.stamp - stamp).toNat 4294967295) else c.skew.max,
             leading := some path }) := by
  cases seen <;> rfl

theorem Ctx.judge_behindEmitted (hs : c.state = .running) (hw : p.window ≤ seqDist c.nes b.cell.seq)
    (hd : 32768 ≤ seqDist c.nes b.cell.seq) (hb : 65536 - seqDist c.nes b.cell.seq ≤ 64)
    (hh : c.history[65536 - seqDist c.nes b.cell.seq - 1]? = some (.emitted check path stamp seen)) :
    c.judge p limit free b = Ctx.countDuplicate limit check path stamp (!seen) b
      { c with history := c.history.set (65536 - seqDist c.nes b.cell.seq - 1) (.emitted check path stamp true) } :=
  (Ctx.judge_behind hs hw hd).trans (Ctx.judgeBehind_emitted hb hh)

/-- The number of a held record or of an EMITTED position makes the cell a duplicate of that copy (R28, R33, R36, R37). -/
theorem Ctx.judge_duplicate (hw : p.window ≤ 256)
    (h : (c.state = .running ∨ c.state = .seeding) ∧ seqDist c.nes b.cell.seq < p.window ∧
        (∃ r, c.held.find? (fun r => r.buffer.cell.seq == b.cell.seq) = some r ∧
          r.otherSeen = seen ∧ r.buffer.cell.payloadCheck = check ∧ r.buffer.path = path ∧ r.buffer.stamp = stamp) ∨
      c.state = .running ∧ 32768 ≤ seqDist c.nes b.cell.seq ∧ 65536 - seqDist c.nes b.cell.seq ≤ 64 ∧
        c.history[65536 - seqDist c.nes b.cell.seq - 1]? = some (.emitted check path stamp seen)) :
    ∃ held history, c.judge p limit free b = Ctx.countDuplicate limit check path stamp (!seen) b
      { c with held := held, history := history } := by
  obtain ⟨hs, hd, r, hr, hseen, hcheck, hpath, hstamp⟩ | ⟨hs, hd, hb, hh⟩ := h
  · subst hseen hcheck hpath hstamp
    exact ⟨_, _, Ctx.judge_held hs hd hr⟩
  · exact ⟨_, _, Ctx.judge_behindEmitted hs (Nat.le_trans hw (Nat.le_trans (by decide) hd)) hd hb hh⟩

end

/-- Settles O15: either copy's duplicate is counted and measured alike, and the marked context settles. -/
theorem duplicatesAreComparedAndMeasured : Obligations.DuplicatesAreComparedAndMeasured := by
  refine ⟨fun p limit free b c check path stamp seen hs hw => ?_, ?_⟩
  · intro d j ticks recorded ofHeld ofHistory hof
    have same : ofHeld → j = Ctx.countDuplicate limit check path stamp (!seen) b
        { c with held := markHeldSeen b.cell.seq c.held } := by
      rintro ⟨hd, r, hr, hseen, hcheck, hpath, hstamp⟩
      subst hseen hcheck hpath hstamp
      exact Ctx.judge_held (.inl hs) hd hr
    have past : ofHistory → j = Ctx.countDuplicate limit check path stamp (!seen) b
        { c with history := c.history.set (65536 - d - 1) (.emitted check path stamp true) } := fun ⟨hd, hb, hh⟩ =>
      Ctx.judge_behindEmitted hs (Nat.le_trans hw (Nat.le_trans (by decide) hd)) hd hb hh
    obtain ⟨heldSet, history, hj⟩ : ∃ held history, j = Ctx.countDuplicate limit check path stamp (!seen) b
        { c with held := held, history := history } := by
      obtain h | h := hof
      · exact ⟨_, _, same h⟩
      · exact ⟨_, _, past h⟩
    refine ⟨?_, ?_, ?_, ?_, ?_, ?_, ?_, fun h => ?_, fun h => ?_⟩
    · rw [hj]; rfl
    · rw [hj]; rfl
    · rw [hj, Ctx.countDuplicate_counters]
    · rw [hj, Ctx.mem_countDuplicate_events]; simp
    · rw [hj, Ctx.mem_countDuplicate_events]; simp [ticks]
    · rw [hj, Ctx.countDuplicate_skew]
    · rw [hj]; rfl
    · rw [same h]
      exact ⟨rfl, by simp [Ctx.countDuplicate, markHeldSeen]⟩
    · rw [past h]
      exact ⟨rfl, rfl⟩
  · intro s p h payload check d n kept path stamp seen hr hset e c far now b limit j hof marked hold
    obtain ⟨held, history, hj⟩ : ∃ held history, j = Ctx.countDuplicate limit kept path stamp (!seen) b
        { c with held := held, history := history } := Ctx.judge_duplicate e.window.size_bounds.2 hof
    have hdisp : j.disp = .duplicate := by rw [hj]; rfl
    have hflushed : j.flushed = 0 := by rw [hj]; rfl
    obtain ⟨t, hx, hfl, hp, hev, hloss, -, ho⟩ := arrival_leaves (d := d) (j := j) hr rfl
    have hmark : j.marked p (s.markedBy now) = marked := by
      unfold Judged.marked
      rw [hdisp]
      rfl
    rw [hmark] at hfl hloss
    rw [hdisp, hflushed] at hp
    have hpool : t.pool = ((s.advance d).setRx p { s.rx p with reception := none }).pool := by simpa using hp
    rw [hpool] at ho
    have events : ∀ k : AlarmKind, k = .mismatch ∧ check ≠ kept ∨ k = .skew ∧ seen = false ∧ limit < (now - stamp).toNat →
        hasKind t.alarms.latched k = true := fun k hk => hev k (by rw [hj]; exact Ctx.mem_countDuplicate_events.mpr hk)
    refine ⟨t, hx, ?_, fun hk => events _ (.inl ⟨rfl, hk⟩), fun hk => events _ (.inr ⟨rfl, hk⟩), ho⟩
    rw [hfl]
    exact Ctx.settle_settlesTo rfl hloss

end Sys2Proof.Machine
end

section
/-! PROOFS. The table of distances (R31 to R36) and the arrival that joins the held set (R33, R39, R40, R58). -/

namespace Sys2Proof.Machine

open Sys2Proof

section
variable {p : Params} {limit free : Nat} {b : Buffer} {c : Ctx}

theorem Ctx.tryAccept_disp (take : Ctx → Ctx) : (c.tryAccept p free take).disp =
    if p.quota ≤ c.occupancy then .quotaDrop else if free = 0 then .noBuffer else .accepted := by
  have h : (c.tryAccept p free take).disp = acceptanceTest p free c := by
    unfold Ctx.tryAccept
    dsimp only
    split <;> rfl
  rw [h]
  rfl

theorem Ctx.tryAccept_seeding (hs : c.state = .seeding) : c.tryAccept p free (Ctx.hold b) =
    { ({ c with state := .running } : Ctx).tryAccept p free (Ctx.hold b) with
      ctx := { (({ c with state := .running } : Ctx).tryAccept p free (Ctx.hold b)).ctx with state := .seeding } } := by
  by_cases hq : p.quota ≤ c.occupancy
  · rw [Ctx.tryAccept_quota hq, Ctx.tryAccept_quota (c := { c with state := .running }) hq, ← hs]
  · have hlt := Nat.lt_of_not_le hq
    by_cases hf : free = 0
    · rw [Ctx.tryAccept_empty hlt hf, Ctx.tryAccept_empty (c := { c with state := .running }) hlt hf, ← hs]
    · rw [Ctx.tryAccept_accepts hlt hf, Ctx.tryAccept_accepts (c := { c with state := .running }) hlt hf]
      unfold Ctx.hold
      rw [hs]

/-- In range a cell is judged in SEEDING as in RUNNING (R28). -/
theorem Ctx.judge_seedingIn (hs : c.state = .seeding) (hd : seqDist c.nes b.cell.seq < p.window) : c.judge p limit free b =
    { ({ c with state := .running } : Ctx).judge p limit free b with
      ctx := { (({ c with state := .running } : Ctx).judge p limit free b).ctx with state := .seeding } } := by
  by_cases hh : ∃ r ∈ c.held, r.buffer.cell.seq = b.cell.seq
  · obtain ⟨r, hr⟩ := findHeld_exists hh
    rw [Ctx.judge_held (.inr hs) hd hr, Ctx.judge_held (c := { c with state := .running }) (.inl rfl) hd hr]
    unfold Ctx.duplicateOfHeld Ctx.countDuplicate
    rw [hs]
  · have hn : ∀ r ∈ c.held, r.buffer.cell.seq ≠ b.cell.seq := fun r hr e => hh ⟨r, hr, e⟩
    rw [Ctx.judge_new (.inr hs) hd hn, Ctx.judge_new (c := { c with state := .running }) (.inl rfl) hd hn]
    exact Ctx.tryAccept_seeding hs

end

/-- Behind consecutive numbers NES is their count further. -/
theorem nesBehind_consecutive {n : Seq} {run : List HeldRec}
    (h : ∀ (i : Nat) (r : HeldRec), run[i]? = some r → r.buffer.cell.seq = n + BitVec.ofNat 16 i) :
    nesBehind n run = n + BitVec.ofNat 16 run.length := by
  unfold nesBehind
  cases hl : run.getLast? with
  | none => rw [List.getLast?_eq_none_iff.mp hl]; simp
  | some r =>
    have hne : run ≠ [] := by rintro rfl; cases hl
    have hpos : 0 < run.length := List.length_pos_iff.mpr hne
    rw [List.getLast?_eq_getElem?] at hl
    dsimp only
    rw [h _ _ hl, BitVec.add_assoc]
    congr 1
    show BitVec.ofNat 16 (run.length - 1) + BitVec.ofNat 16 1 = _
    rw [← BitVec.ofNat_add, Nat.sub_add_cancel hpos]

/-- The in-order run of consecutive numbers ends where the next is neither at NES nor past. -/
theorem splitRun_consecutive {hold : Nat} {now : Time} {n : Seq} {run rest : List HeldRec}
    (h : ∀ (i : Nat) (r : HeldRec), run[i]? = some r → r.buffer.cell.seq = n + BitVec.ofNat 16 i)
    (hw : ∀ r : HeldRec, rest.head? = some r →
      r.buffer.cell.seq ≠ n + BitVec.ofNat 16 run.length ∧ ticksSince now r.buffer.stamp < hold) :
    splitRun hold now n (run ++ rest) = (run, rest) := by
  refine splitRun_eq run rest n (fun i r hr => .inl ?_) (by rw [nesBehind_consecutive h]; exact hw)
  have hi : i < run.length := (List.getElem?_eq_some_iff.mp hr).1
  rw [nesBehind_consecutive (run := run.take i), h i r hr, List.length_take_of_le (Nat.le_of_lt hi)]
  intro k q hk
  rw [List.getElem?_take] at hk
  split at hk
  · exact h k q hk
  · cases hk

/-- Settles O13: the judgement by distance, and the two ways an accepted record leaves the held set. -/
theorem runningDispositionsByDistance : Obligations.RunningDispositionsByDistance := by
  refine ⟨fun p limit free b c => ?_, ?_⟩
  · intro d j late
    refine ⟨fun hs hw => ⟨fun hd hh => ?_, fun hd hn => ?_, fun hwd hd hc => ?_, fun hd hb => ⟨fun k q st seen hh => ?_, fun hh => ?_⟩,
      fun hd hb => ?_⟩, fun hs => ⟨fun hd => Ctx.judge_seedingIn hs hd, fun hd => Ctx.judge_seedingOut hs hd⟩,
      fun below above hs hd hh hb ha hq hf => Ctx.judge_accepts hs hd hh hb ha hq hf⟩
    · obtain ⟨r, hr⟩ := findHeld_exists hh
      have hj : j = c.duplicateOfHeld limit r b := Ctx.judge_held (.inl hs) hd hr
      rw [hj]
      rfl
    · have hj : j = c.tryAccept p free (Ctx.hold b) := Ctx.judge_new (.inl hs) hd hn
      rw [hj, Ctx.tryAccept_disp]
    · have hj := (Ctx.judge_far (limit := limit) (free := free) hs hwd hd).trans (Ctx.judgeFarAhead_below hc)
      exact ⟨congrArg Judged.disp hj, congrArg Judged.ctx hj⟩
    · exact congrArg Judged.disp (Ctx.judge_behindEmitted hs (Nat.le_trans hw (Nat.le_trans (by decide) hd)) hd hb hh)
    · exact (Ctx.judge_behind hs (Nat.le_trans hw (Nat.le_trans (by decide) hd)) hd).trans (Ctx.judgeBehind_late (.inr hh))
    · exact (Ctx.judge_behind hs (Nat.le_trans hw (Nat.le_trans (by decide) hd)) hd).trans (Ctx.judgeBehind_late (.inl hb))
  · intro s p h payload check d n hph hrx hl hpay hm hf hb hv hi hu hs hq hfree e c now new marked hold pool received
    have hr : s.reachesFlow p h payload check n := ⟨hph, hrx, hl, hpay, hm, hf, hb, hv, hi, hu⟩
    have hhold : ∀ held : List HeldRec, (({ c with held := held, runCount := 0 } : Ctx).setPres p (s.markedBy now)).applicableHold
        (Params.ofEntry e) = hold := fun held => by cases p <;> rfl
    refine ⟨fun below above low hpos hd hheld hbelow habove hlow hwait => ?_, fun run rest hseq hheld hn hrun hrest => ?_⟩
    · have hj := Ctx.judge_accepts (p := Params.ofEntry e) (limit := s.tables.settings.skewTicks)
        (b := receivedBuffer p h payload check now) (.inl hs) hd hheld (fun r hr => (hbelow r hr).2) habove hq hfree
      obtain ⟨t, hx, hfl, hp, -, -, -, ho⟩ := arrival_leaves hr hj
      obtain ⟨up, hup⟩ : ∃ up, below ++ new :: above = low :: up := by
        cases hx : below ++ new :: above with
        | nil => simp at hx
        | cons x up => rw [hx] at hlow; cases hlow; exact ⟨up, rfl⟩
      have hne : low.buffer.cell.seq ≠ c.nes := by
        have hmem : low ∈ below ++ new :: above := hup ▸ List.mem_cons_self
        have hlt : 0 < seqDist c.nes low.buffer.cell.seq := by
          obtain hb | ha := List.mem_append.mp hmem
          · exact (hbelow low hb).1
          · obtain rfl | ha := List.mem_cons.mp ha
            · exact hpos
            · exact Nat.lt_trans hpos (habove low ha)
        exact fun e => absurd (seqDist_eq_zero.mpr e) (Nat.ne_of_gt hlt)
      rw [Judged.marked_accepted, Ctx.settle_stay (Ctx.micro_gap_waits (h := low) (rest := up) (by simpa using hs)
        (by simpa [new, receivedBuffer] using hup) (by simpa using hne) (.inr (by rw [hhold]; exact hwait))), hhold] at hfl
      refine ⟨t, hx, hfl.trans ?_, hp, ho⟩
      cases p <;> rfl
    · have hz : seqDist c.nes (receivedBuffer p h payload check now).cell.seq = 0 := seqDist_eq_zero.mpr hseq
      have hj := Ctx.judge_accepts (p := Params.ofEntry e) (limit := s.tables.settings.skewTicks) (below := []) (above := c.held)
        (b := receivedBuffer p h payload check now) (.inl hs)
        (lt_of_eq_of_lt hz (Window.size_pos _)) rfl (by simp)
        (fun r hr => lt_of_eq_of_lt hz (Nat.pos_of_ne_zero fun e => hn r hr (seqDist_eq_zero.mp e))) hq hfree
      obtain ⟨t, hx, hfl, hp, -, -, -, ho⟩ := arrival_leaves hr hj
      rw [Judged.marked_accepted] at hfl
      have hset := (Ctx.settle_leaves (e := e) (now := now) (h := new) (above := c.held)
        (c := ({ c with held := new :: c.held, runCount := 0 } : Ctx).setPres p (s.markedBy now)) (by simpa using hs) (by simp)
        (.inl (by simpa using hseq)) (hhold _)).1
      have hsplit : splitRun hold now (new.buffer.cell.seq + 1) c.held = (run, rest) := by
        have one : ∀ i : Nat, c.nes + BitVec.ofNat 16 (i + 1) = new.buffer.cell.seq + 1 + BitVec.ofNat 16 i := fun i => by
          rw [show new.buffer.cell.seq = c.nes from hseq, Nat.add_comm i, BitVec.ofNat_add, BitVec.add_assoc]
          rfl
        rw [hheld]
        refine splitRun_consecutive (fun i r hr => (hrun i r hr).trans (one i)) (fun r hr => ?_)
        rw [← one]
        exact hrest r hr
      rw [hsplit] at hset
      refine ⟨t, hx, (hfl.trans hset).trans ?_, hp, ho⟩
      cases p <;> rfl

end Sys2Proof.Machine
end

section
/-! PROOFS. The agent's commands (R132, R134, R152 to R169): what each execution answers, and the command as a ready agent
executes it. -/

namespace Sys2Proof.Machine

open Sys2Proof

/-! ## Handing a command over -/

/-- Every command of the table is handed to the agent and does what the agent does with it (R152, section 12.2). -/
theorem exec_handed {i : Instr} {code target tag : Byte} {args : List Byte} (h : handsOver i = some (code, target, tag, args))
    (s : State) : exec i s = .next (s.agentTakes code target tag args) := by
  cases i <;> cases h <;> rfl

/-- A ready agent's command that leaves the command queue, context M, the Settings and the Time Base is done with its
execution. -/
theorem State.agentTakes_done {s t : State} {code target tag : Byte} {args : List Byte} (h : s.agentReady target)
    (hr : runCommand (handed code target tag args) s = t) (hc : t.agent.commands = s.agent.commands) (hm : t.m = s.m)
    (ht : t.tables.settings = s.tables.settings) (hb : t.timeBase = s.timeBase) :
    s.agentTakes code target tag args = t := by
  have ⟨_, _, hq, _, _, hs⟩ := h
  refine State.agentTakes_eq h hr (hc.trans hq) ?_
  show t.m.micro (Params.ofSettings t.tables.settings) t.timeBase = .stay t.m
  rw [hm, ht, hb]
  exact hs

/-- A state in which the agent may not execute and context M is settled has nothing more to do. -/
theorem State.settleAgent_done {s : State} (hc : s.agent.canExecute = false) (hm : s.m.settled s.mParams s.timeBase) :
    s.settleAgent = s := State.settle_done _ hc hm

theorem Agent.canExecute_waits {g : Agent} (h : 8 ≤ g.replies.length ∨ g.restartWaiting = true) : g.canExecute = false := by
  unfold Agent.canExecute Agent.placeFree
  obtain h | h := h
  · have hl : ¬ g.replies.length < Config.replyPlaces := Nat.not_lt.mpr h
    simp [hl]
  · simp [h]

theorem Agent.canExecute_idle {g : Agent} (h : g.commands = []) : g.canExecute = false := by
  simp [Agent.canExecute, h]

theorem Agent.addressed_iff (g : Agent) (target : Byte) :
    g.addressed target = true ↔ target.toNat = 31 ∨ target.toNat = g.strap.toNat := by
  simp [Agent.addressed]

/-! ## Notifications -/

/-- Settles O29: the four conditions hold, and the forming is one reply at the tail. -/
theorem notifyFormsANotification : Obligations.NotifyFormsANotification := by
  intro s hp hn hc hr hw
  have hl : s.agent.replies.length < Config.replyPlaces := hr
  have hready : s.notifyReady = true := by
    simp [State.notifyReady, Agent.placeFree, hp, hn, hc, hl, hw]
  show Host.Outcome.next (if s.notifyReady then s.formNotification else s) = _
  rw [if_pos hready]
  rfl

/-! ## Commands that cannot execute -/

/-- A command for a full command queue overruns (R153). -/
theorem State.receiveCommand_overruns {c : Command} {s : State} (h : 4 ≤ s.agent.commands.length) :
    s.receiveCommand c = State.latch .mgmtOverrun { s with
      agent := { s.agent with overrun := true }
      device := { s.device with overrun := s.device.overrun + 1 } } := by
  unfold State.receiveCommand
  exact if_neg (Nat.not_lt.mpr h)

theorem State.latch_alarms (k : AlarmKind) (s : State) :
    (s.latch k).alarms = { s.alarms with latched := s.alarms.latched ||| k.mask } := by
  rw [State.latch_eq]

/-- Settles O33: an idle agent takes nothing; at work the hand-over is all that happens. -/
theorem commandsThatCannotExecuteWait : Obligations.CommandsThatCannotExecuteWait := by
  intro s i code target tag args hi ha hm
  rw [exec_handed hi]
  refine ⟨fun hp => ?_, fun hp h31 hstrap hc => ?_, fun hp haddr hwait => ⟨fun hl => ?_, fun hl => ?_⟩⟩
  · rw [State.agentTakes_idle hp]
  · have hna : s.agent.addressed target = false :=
      Bool.eq_false_iff.mpr (mt (Agent.addressed_iff _ _).mp (fun h => h.elim h31 hstrap))
    have hd : s.deliver 0 (handed code target tag args)
        = { s with device := { s.device with notForMe := s.device.notForMe + 1 } } := by
      simp [State.deliver, handed, hna]
    have ht : s.agentTakes code target tag args = (s.deliver 0 (handed code target tag args)).settleAgent := if_pos hp
    rw [ht, hd]
    exact congrArg Host.Outcome.next (State.settleAgent_done (Agent.canExecute_idle hc) hm)
  · rw [State.agentTakes_waits hp ((Agent.addressed_iff _ _).mpr haddr) hl hwait hm]
    unfold handed
    rw [fitBytes_of_length (n := Config.argBytes) ha]
  · have hd : s.deliver 0 (handed code target tag args) = s.receiveCommand (handed code target tag args) := by
      simp [State.deliver, handed, (Agent.addressed_iff _ _).mpr haddr]
    have ht : s.agentTakes code target tag args = (s.deliver 0 (handed code target tag args)).settleAgent := if_pos hp
    rw [ht, hd, State.receiveCommand_overruns hl]
    generalize hu : ({ s with
      agent := { s.agent with overrun := true }
      device := { s.device with overrun := s.device.overrun + 1 } } : State) = u
    obtain ⟨e, -, -⟩ := State.latch_onlyAlarms .mgmtOverrun u
    have hcan : (u.latch .mgmtOverrun).agent.canExecute = false :=
      Agent.canExecute_waits (by rw [e, ← hu]; exact hwait)
    have hset : (u.latch .mgmtOverrun).m.settled (u.latch .mgmtOverrun).mParams (u.latch .mgmtOverrun).timeBase := by
      rw [e, ← hu]; exact hm
    rw [State.settleAgent_done hcan hset]
    refine ⟨_, rfl, ?_⟩
    rw [e, State.latch_alarms, ← hu]

/-! ## ECHO and unknown codes -/

/-- Settles O34. -/
theorem echoAndUnknownCodes : Obligations.EchoAndUnknownCodes := by
  intro s target tag code args h ha
  refine ⟨congrArg Host.Outcome.next (State.agentTakes_replied h ?_ rfl rfl rfl rfl), fun hc =>
    congrArg Host.Outcome.next (State.agentTakes_replied h (runCommand_unknown hc target tag args s) rfl rfl rfl rfl)⟩
  show s.replied tag 0x01 .ok (handed 0x01 target tag args).args = _
  rw [handed_args ha]

/-! ## Reading a bank -/

theorem Tables.bank_eq_some {t : Tables} {b : Byte} {bank : Bank} (h : b = 0 ∧ bank = t.active ∨ b = 1 ∧ bank = t.pendingBank) :
    t.bank b = some bank := by
  obtain ⟨rfl, rfl⟩ | ⟨rfl, rfl⟩ := h <;> rfl

theorem runGetEntry_eq {c : Command} {s : State} {bank : Bank} {n : Index} (hb : s.tables.bank (c.arg 0) = some bank)
    (hn : (c.arg 1).toNat = n.val) : runGetEntry c s = s.answer c .ok (encodeEntry (bank.entry n)) := by
  unfold runGetEntry
  rw [hb, (decodeIndex_eq_some_iff _ n).mpr hn]

theorem runGetSlots_eq {c : Command} {s : State} {bank : Bank} (hb : s.tables.bank (c.arg 0) = some bank)
    (hr : slotRangeOk (c.arg 1).toNat (c.arg 2).toNat = true) : runGetSlots c s = s.answer c .ok
      (encodeHeader bank.calendar
        ++ (List.range (c.arg 2).toNat).map (fun i => encodeSlot (bank.calendar.slot ((c.arg 1).toNat + i)))) := by
  unfold runGetSlots
  rw [hb]
  exact if_pos hr

/-- Settles O36. -/
theorem getEntryAndSlotsReadABank : Obligations.GetEntryAndSlotsReadABank := by
  intro s target tag args bank h ha hb
  have hbank : ∀ code : Byte, s.tables.bank ((handed code target tag args).arg 0) = some bank := fun code => by
    rw [handed_arg 0 ha]
    exact Tables.bank_eq_some hb
  refine ⟨fun n hn => congrArg Host.Outcome.next (State.agentTakes_replied h ?_ rfl rfl rfl rfl), fun h1 h32 h128 =>
    congrArg Host.Outcome.next (State.agentTakes_replied h ?_ rfl rfl rfl rfl)⟩
  · exact runGetEntry_eq (c := handed 0x10 target tag args) (hbank _) (by rw [handed_arg 1 ha]; exact hn)
  · have hrun := runGetSlots_eq (c := handed 0x12 target tag args) (s := s) (hbank _)
      (by rw [handed_arg 1 ha, handed_arg 2 ha]; exact (slotRangeOk_iff _ _).mpr ⟨h1, h32, h128⟩)
    rw [handed_arg 1 ha, handed_arg 2 ha] at hrun
    exact hrun

/-! ## Writing the PENDING bank -/

theorem runPutEntry_eq {c : Command} {s : State} {n : Index} {e : Entry} (hc : s.tables.commit = .none)
    (hn : (c.arg 0).toNat = n.val) (he : decodeEntry c.args 1 = some e) :
    runPutEntry c s = (s.writePending (s.tables.pendingBank.putEntry n e)).answer c .ok [] := by
  unfold runPutEntry
  rw [hc]
  dsimp only
  rw [(decodeIndex_eq_some_iff _ n).mpr hn, he]

theorem runPutSlots_eq {c : Command} {s : State} {slots : List Slot} (hc : s.tables.commit = .none)
    (hr : slotRangeOk (c.arg 0).toNat (c.arg 1).toNat = true) (hs : decodeSlots c.args 2 (c.arg 1).toNat = some slots) :
    runPutSlots c s = (s.writePending (s.tables.pendingBank.putSlots (c.arg 0).toNat slots)).answer c .ok [] := by
  unfold runPutSlots
  rw [hc]
  dsimp only
  rw [if_pos hr, hs]

theorem runPutCalHeader_eq {c : Command} {s : State} {length : Nat} {lend : Bool} (hc : s.tables.commit = .none)
    (hh : decodeHeader (c.arg 0) (c.arg 1) = some (length, lend)) : runPutCalHeader c s = State.answer c .ok []
      (s.writePending { s.tables.pendingBank with
        calendar := { s.tables.pendingBank.calendar with length := length, lend := lend } }) := by
  unfold runPutCalHeader
  rw [hc]
  dsimp only
  rw [hh]

/-- Slot bytes decode together when each does (R132). -/
theorem decodeSlots_eq_some {bytes : List Byte} : ∀ {slots : List Slot} {i : Nat},
    (∀ k : Nat, k < slots.length → decodeSlot (byteAt bytes (i + k)) = slots[k]?) →
      decodeSlots bytes i slots.length = some slots
  | [], _, _ => rfl
  | x :: slots, i, h => by
    have h0 : decodeSlot (byteAt bytes i) = some x := h 0 (Nat.zero_lt_succ _)
    have ih : decodeSlots bytes (i + 1) slots.length = some slots := decodeSlots_eq_some fun k hk => by
      have := h (k + 1) (Nat.succ_lt_succ hk)
      rwa [Nat.add_comm k 1, ← Nat.add_assoc, Nat.add_comm 1 k, List.getElem?_cons_succ] at this
    rw [List.length_cons, decodeSlots, h0, ih]

/-- Consecutive positions replaced, the others standing. -/
theorem getElem?_splice {α : Type} (old new : List α) (first i : Nat) (h : first + new.length ≤ old.length) :
    (old.take first ++ new ++ old.drop (first + new.length))[i]?
      = if first ≤ i ∧ i < first + new.length then new[i - first]? else old[i]? := by
  have hlen : (old.take first).length = first := List.length_take_of_le (by omega)
  by_cases h1 : i < first
  · rw [List.append_assoc, List.getElem?_append_left (by rw [hlen]; exact h1), List.getElem?_take_of_lt h1,
      if_neg (fun e => absurd e.1 (Nat.not_le.mpr h1))]
  · have h1' := Nat.le_of_not_lt h1
    by_cases h2 : i < first + new.length
    · rw [if_pos ⟨h1', h2⟩, List.getElem?_append_left (by rw [List.length_append, hlen]; exact h2),
        List.getElem?_append_right (by rw [hlen]; exact h1'), hlen]
    · have h2' := Nat.le_of_not_lt h2
      rw [if_neg (fun e => h2 e.2), List.getElem?_append_right (by rw [List.length_append, hlen]; exact h2'),
        List.getElem?_drop, List.length_append, hlen, Nat.add_sub_cancel' h2']

theorem decodeHeader_eq_some {length lend : Byte} {l : Bool} (h1 : 1 ≤ length.toNat) (h128 : length.toNat ≤ 128)
    (hl : lend = if l then 1 else 0) : decodeHeader length lend = some (length.toNat, l) := by
  have hf : decodeFlag lend = some l := by rw [hl]; cases l <;> rfl
  unfold decodeHeader
  rw [hf]
  exact if_pos ⟨h1, h128⟩

/-- Settles O37. -/
theorem putsWriteThePendingBank : Obligations.PutsWriteThePendingBank := by
  intro s target tag args h ha hc written old
  refine ⟨fun n e hn he => ?_, fun first slots hf hn h1 h32 h128 hold hslots => ?_, fun lend h1 h128 hl => ?_⟩
  · refine congrArg Host.Outcome.next (State.agentTakes_done h ?_ rfl rfl rfl rfl)
    exact runPutEntry_eq (c := handed 0x11 target tag args) hc (by rw [handed_arg 0 ha]; exact hn)
      (by rw [handed_args ha]; exact he)
  · refine ⟨old.putSlots first slots, congrArg Host.Outcome.next (State.agentTakes_done h ?_ rfl rfl rfl rfl), rfl,
      ?_, fun i => getElem?_splice _ _ _ _ (by omega)⟩
    · have hrun := runPutSlots_eq (c := handed 0x13 target tag args) (slots := slots) hc
        (by rw [handed_arg 0 ha, handed_arg 1 ha, hf, hn]; exact (slotRangeOk_iff _ _).mpr ⟨h1, h32, h128⟩)
        (by rw [handed_arg 1 ha, handed_args ha, hn]; exact decodeSlots_eq_some hslots)
      rw [handed_arg 0 ha, hf] at hrun
      exact hrun
    · simp only [Bank.putSlots, List.length_append, List.length_take, List.length_drop, hold, old] at hold ⊢
      omega
  · refine congrArg Host.Outcome.next (State.agentTakes_done h ?_ rfl rfl rfl rfl)
    exact runPutCalHeader_eq (c := handed 0x14 target tag args) hc
      (by rw [handed_arg 0 ha, handed_arg 1 ha]; exact decodeHeader_eq_some h1 h128 hl)

end Sys2Proof.Machine
end

section
/-! PROOFS. The agent's commands: COMMIT and ABANDON, the counters, the Stray Label List, and the end of a SAVE's write. -/

namespace Sys2Proof.Machine

open Sys2Proof

/-! ## COMMIT and ABANDON -/

theorem finRange_split {N : Nat} (n : Fin N) :
    ∃ before after : List (Fin N), List.finRange N = before ++ n :: after ∧ ∀ k ∈ before, k < n := by
  have hn : n.val < (List.finRange N).length := by simp
  refine ⟨(List.finRange N).take n.val, (List.finRange N).drop (n.val + 1), ?_, fun k hk => ?_⟩
  · have h : (List.finRange N)[n.val] = n := by simp
    conv => lhs; rw [← List.take_append_drop n.val (List.finRange N), List.drop_eq_getElem_cons hn, h]
  · obtain ⟨i, hi, e⟩ := List.mem_take_iff_getElem.mp hk
    rw [List.getElem_finRange] at e
    rw [← e, Fin.lt_def]
    exact Nat.lt_of_lt_of_le hi (Nat.min_le_left _ _)

/-- The lowest index that fails is the one validation names (R134). -/
theorem Bank.validate_lowest {bank : Bank} {n : Index} {x : CommitReason × Index} (hn : bank.checkEntry n = some x)
    (hlow : ∀ k : Index, k < n → bank.checkEntry k = none) : bank.validate = some x := by
  obtain ⟨before, after, hsplit, hbefore⟩ := finRange_split n
  unfold Bank.validate
  rw [List.findSome?_eq_some_iff]
  exact ⟨before, n, after, hsplit, hn, fun k hk => hlow k (hbefore k hk)⟩

theorem runCommit_refused {c : Command} {s : State} {reason : CommitReason} {n : Index} (hc : s.tables.commit = .none)
    (hv : s.tables.pendingBank.validate = some (reason, n)) :
    runCommit c s = s.answer c .validationFailed [reason.byte, BitVec.ofNat 8 n.val] := by
  unfold runCommit
  rw [hc]
  dsimp only
  rw [hv]

theorem runCommit_accepted {c : Command} {s : State} (hc : s.tables.commit = .none) (hv : s.tables.pendingBank.sound) :
    runCommit c s = State.reservePlace c { s with tables := { s.tables with commit := .outstanding c.tag } } := by
  unfold runCommit
  rw [hc]
  dsimp only
  rw [(Bank.validate_eq_none _).mpr hv]

theorem runAbandon_eq {c : Command} {s : State} (hc : s.tables.commit = .none) :
    runAbandon c s = (s.writePending s.tables.active).answer c .ok [] := by
  unfold runAbandon
  rw [hc]

/-- Settles O38: the validation scan stops at the lowest index that fails, whose tests come in their order. -/
theorem commitValidatesAndReserves : Obligations.CommitValidatesAndReserves := by
  intro s target tag args h ha hc pend dup long
  have hdup : ∀ n : Index, pend.dupLabel n = true ↔ dup n := pend.dupLabel_iff
  refine ⟨fun hv => congrArg Host.Outcome.next (State.agentTakes_done h ?_ rfl rfl rfl rfl), fun n hn hlow => ?_,
    congrArg Host.Outcome.next (State.agentTakes_done h ?_ rfl rfl rfl rfl)⟩
  · exact runCommit_accepted (c := handed 0x18 target tag args) hc hv
  · have below : ∀ k : Index, k < n → pend.checkEntry k = none := fun k hk => (pend.checkEntry_eq_none k).mpr fun hv => by
      obtain ⟨hd, hl⟩ := hlow k hk hv
      exact ⟨Bool.eq_false_iff.mpr (mt (hdup k).mp hd), Nat.le_of_not_lt hl⟩
    have refused : ∀ reason : CommitReason, pend.checkEntry n = some (reason, n) → exec (.commit target tag args) s
        = .next (s.replied tag 0x18 .validationFailed [reason.byte, BitVec.ofNat 8 n.val]) := fun reason hx =>
      congrArg Host.Outcome.next (State.agentTakes_done h
        (runCommit_refused (c := handed 0x18 target tag args) hc (Bank.validate_lowest hx below)) rfl rfl rfl rfl)
    refine ⟨fun hd => refused .dupLabel ?_, fun hd hl => refused .loneHold ?_⟩
    · unfold Bank.checkEntry
      rw [if_pos hn, if_pos ((hdup n).mpr hd)]
    · unfold Bank.checkEntry
      rw [if_pos hn, if_neg (mt (hdup n).mp hd), if_pos hl]
  · exact runAbandon_eq (c := handed 0x19 target tag args) hc

/-! ## Counters -/

theorem decodeContext_flow {b : Byte} {n : Index} (h : b.toNat = n.val) : decodeContext b = some (.flow n) := by
  unfold decodeContext
  rw [(decodeIndex_eq_some_iff _ n).mpr h]

theorem decodeContext_m : decodeContext 128 = some .m := rfl

/-- The execution answers with the items as it finds them, whatever the clear option then clears (R166). -/
theorem runGetCounters_eq {c : Command} {s : State} {i : ContextId} (hi : decodeContext (c.arg 0) = some i)
    (hg : (c.arg 1).toNat ≤ 2) : runGetCounters c s =
      (if c.arg 2 = 0 then s else s.changeRecord i (Ctx.clearGroup (c.arg 1))).answer c .ok
        (s.countersResult i (c.arg 0) (c.arg 1)) := by
  unfold runGetCounters Command.clears
  rw [hi]
  dsimp only
  rw [if_pos hg]
  by_cases h2 : c.arg 2 = 0
  · simp [h2]
  · rw [if_pos (by simpa using h2), if_neg h2]
    cases i <;> rfl

/-- A cleared context rests as it did. -/
theorem Ctx.settled_clearGroup {p : Params} {now : Time} {c : Ctx} (h : c.settled p now) (group : Byte) :
    (c.clearGroup group).settled p now := by
  rw [Ctx.settled_iff] at h ⊢
  unfold Ctx.clearGroup
  split
  · exact h.of_eq rfl rfl rfl rfl rfl rfl rfl
  · split
    · exact h.of_eq rfl rfl rfl rfl rfl rfl rfl
    · exact h

theorem encodePresence_stamped {r : Presence} {stamp : Time} (h : r.last = some stamp) :
    encodePresence r = [if r.present then (1 : Byte) else 0] ++ (1 : Byte) :: beBytes 6 stamp.toNat := by
  unfold encodePresence
  rw [h]
  rfl

theorem encodePresence_unstamped {r : Presence} (h : r.last = none) :
    encodePresence r = [if r.present then (1 : Byte) else 0] ++ List.replicate 7 0 := by
  unfold encodePresence
  rw [h]
  rfl

/-- Settles O39. -/
theorem getCountersReadsAndClears : Obligations.GetCountersReadsAndClears := by
  intro s target tag args i h ha hi hg c four presence result cleared
  have hctx : decodeContext ((handed 0x20 target tag args).arg 0) = some i := by
    rw [handed_arg 0 ha]
    cases i with
    | flow n => exact decodeContext_flow hi
    | m => exact (congrArg decodeContext hi).trans decodeContext_m
  have hpres : ∀ r : Presence, encodePresence r = presence r := fun r => by
    cases hl : r.last with
    | none => rw [encodePresence_unstamped hl]; simp only [presence, hl]
    | some stamp => rw [encodePresence_stamped hl]; simp only [presence, hl]
  have hresult : s.countersResult i (byteAt args 0) (byteAt args 1) = result := by
    unfold State.countersResult Ctx.groupBytes
    dsimp only
    rw [hpres, hpres]
    rfl
  have hrun := runGetCounters_eq (c := handed 0x20 target tag args) (s := s) hctx (by rw [handed_arg 1 ha]; exact hg)
  rw [handed_arg 0 ha, handed_arg 1 ha, handed_arg 2 ha, hresult, answer_handed] at hrun
  have ⟨_, _, hq, _, _, hm⟩ := h
  by_cases h2 : byteAt args 2 = 0
  · rw [if_pos h2] at hrun ⊢
    exact congrArg Host.Outcome.next (State.agentTakes_done h hrun rfl rfl rfl rfl)
  · rw [if_neg h2] at hrun ⊢
    cases i with
    | flow n => exact congrArg Host.Outcome.next (State.agentTakes_done h hrun rfl rfl rfl rfl)
    | m => exact congrArg Host.Outcome.next (State.agentTakes_eq h hrun hq (Ctx.settled_clearGroup hm _))

theorem runGetDeviceCounters_eq (c : Command) (s : State) : runGetDeviceCounters c s =
    (if c.arg 1 = 0 then s else { s with device := s.device.clearGroup (c.arg 0) }).answer c .ok
      ([c.arg 0] ++ encodeTime s.timeBase ++ s.device.groupBytes (c.arg 0)) := by
  unfold runGetDeviceCounters Command.clears
  by_cases h1 : c.arg 1 = 0
  · simp [h1]
  · rw [if_neg h1]
    exact if_pos (by simpa using h1)

/-- Settles O40. -/
theorem getDeviceCountersReadsAndClears : Obligations.GetDeviceCountersReadsAndClears := by
  intro s target tag args h ha g four path items cleared
  have hrun := runGetDeviceCounters_eq (handed 0x21 target tag args) s
  rw [handed_arg 0 ha, handed_arg 1 ha, answer_handed] at hrun
  by_cases h1 : byteAt args 1 = 0
  · rw [if_pos h1] at hrun ⊢
    exact congrArg Host.Outcome.next (State.agentTakes_done h hrun rfl rfl rfl rfl)
  · rw [if_neg h1] at hrun ⊢
    exact congrArg Host.Outcome.next (State.agentTakes_done h hrun rfl rfl rfl rfl)

/-! ## The Stray Label List -/

/-- Settles O43. -/
theorem straysAreReadAndCleared : Obligations.StraysAreReadAndCleared := by
  intro s target tag args h ha
  refine ⟨congrArg Host.Outcome.next (State.agentTakes_done h ?_ rfl rfl rfl rfl),
    congrArg Host.Outcome.next (State.agentTakes_done h rfl rfl rfl rfl rfl)⟩
  have harg : (handed 0x2C target tag args).arg 0 = byteAt args 0 := handed_arg 0 ha
  have hbytes : encodeStray = fun r : Stray =>
      beBytes 2 r.label.toNat ++ [match r.firstSeen with | .a => (1 : Byte) | .b => 2] ++ beBytes 4 r.count.toNat
        ++ beBytes 6 r.last.toNat := by
    funext r
    unfold encodeStray encodePath
    cases r.firstSeen <;> rfl
  show s.replied tag 0x2C .ok ([BitVec.ofNat 8 s.strays.length] ++ encodeCount s.device.strayOverflow
    ++ ((s.strays.drop ((handed 0x2C target tag args).arg 0).toNat).take 3).flatMap encodeStray) = _
  rw [harg, hbytes]
  rfl

/-! ## The end of a SAVE's write -/

/-- The oldest place reserved for a code is filled where it stands (R156). -/
theorem fillPlace_oldest {code tag : Byte} {form : Byte → Reply} {behind : List Place} : ∀ {before : List Place},
    (∀ t, Place.reserved t code ∉ before) →
      fillPlace code form (before ++ .reserved tag code :: behind) = before ++ .filled (form tag) :: behind
  | [], _ => if_pos rfl
  | .filled r :: before, h => congrArg (Place.filled r :: ·) (fillPlace_oldest fun t ht => h t (List.mem_cons_of_mem _ ht))
  | .reserved t c :: before, h => by
    have hc : c ≠ code := fun e => h t (e ▸ List.mem_cons_self)
    rw [List.cons_append, fillPlace, if_neg hc, fillPlace_oldest fun t ht => h t (List.mem_cons_of_mem _ ht)]
    rfl

/-- Settles O30. -/
theorem saveWriteEndFillsItsReply : Obligations.SaveWriteEndFillsItsReply := by
  intro s d slot image tag before behind hs hr hb written replies
  have hw : (s.advance d).store.state = .writing slot image := by simpa using hs
  have hexec : ∀ ok, exec (.saveWriteEnd ok d) s = .next ((s.advance d).endWrite ok slot image) := fun ok => by
    show execSaveWriteEnd ok d s = _
    unfold execSaveWriteEnd
    dsimp only
    rw [hw]
  have hended : ∀ ok : Bool, (s.advance d).writeEnded ok slot image = { s.advance d with
      store := written (if ok then some image else none)
      agent := { s.agent with replies := replies (if ok then .ok else .storeFailed) } } := fun ok => by
    have hag : (s.advance d).agent = s.agent := by simp
    have hst : (s.advance d).store = s.store := by simp
    unfold State.writeEnded State.fillReserved
    dsimp only
    rw [hag, hst, hr, fillPlace_oldest hb]
    cases slot <;> rfl
  refine ⟨?_, _, hexec false, ?_⟩
  · rw [hexec, State.endWrite_eq, if_pos rfl, hended]
    rfl
  · rw [State.endWrite_eq, if_neg (by decide), hended]
    generalize hu : ({ s.advance d with
      store := written (if false = true then some image else none)
      agent := { s.agent with replies := replies (if false = true then .ok else .storeFailed) } } : State) = u
    obtain ⟨e, -, -⟩ := State.latch_onlyAlarms .storeFailed u
    refine ⟨?_, ?_, ?_, ?_⟩
    · conv => lhs; rw [e]
      rw [← hu]
      rfl
    · rw [State.latch_alarms, ← hu]; simp
    · rw [State.latch_alarms, ← hu]; simp
    · rw [State.latch_notifyPending, ← hu]; simp

end Sys2Proof.Machine
end

section
/-! PROOFS. The Settings record (R11, R52, R169): how every presence record stands under a new path timeout. -/

namespace Sys2Proof.Machine

open Sys2Proof

/-! ## Retiming -/

/-- A new path timeout that has passed makes a PRESENT record ABSENT, its stamp kept (R52). -/
theorem Presence.retime_past {timeout : Nat} {now stamp : Time} {expiry : Option Time}
    (h : timeout ≤ (now - stamp).toNat) :
    Presence.retime timeout now { present := true, last := some stamp, expiry := expiry }
      = { present := false, last := some stamp, expiry := none } := by
  unfold Presence.retime
  exact (if_pos rfl).trans (if_pos (decide_eq_true h))

/-- A new path timeout that has not passed sets the expiry anew (R52). -/
theorem Presence.retime_waits {timeout : Nat} {now stamp : Time} {expiry : Option Time}
    (h : (now - stamp).toNat < timeout) :
    Presence.retime timeout now { present := true, last := some stamp, expiry := expiry }
      = { present := true, last := some stamp, expiry := some (stamp + BitVec.ofNat 48 timeout) } := by
  unfold Presence.retime
  exact (if_pos rfl).trans (if_neg (Bool.eq_false_iff.mp (decide_eq_false (Nat.not_le.mpr h))))

theorem Ctx.retime_pres (timeout : Nat) (now : Time) (c : Ctx) (p : Path) :
    (c.retime timeout now).pres p = (c.pres p).retime timeout now := by cases p <;> rfl

theorem Ctx.retime_fresh (timeout : Nat) (now : Time) : (Ctx.fresh .none 0).retime timeout now = Ctx.fresh .none 0 := rfl

/-- Every flow's presence records after a retiming: settling touches none (R52). -/
theorem State.pres_retimeAll (s : State) (n : Index) (p : Path) :
    (s.retimeAll.flow n).pres p = ((s.flow n).pres p).retime s.tables.settings.timeoutTicks s.timeBase := by
  have each := State.forFlows_each (I := fun t => t.tables = s.tables ∧ t.timeBase = s.timeBase)
    (f := fun n t => t.settleFlow n ((t.flow n).retime s.tables.settings.timeoutTicks t.timeBase))
    (g := fun n c => (Ctx.settle (s.entry n) s.timeBase (c.retime s.tables.settings.timeoutTicks s.timeBase)).1)
    (fun n t h => by simpa using h)
    (fun n t ⟨h1, h2⟩ => by
      rw [State.flow_settleChange (f := Ctx.retime s.tables.settings.timeoutTicks t.timeBase) (Ctx.retime_fresh _ _),
        State.entry, h1, h2]
      rfl)
    (fun n k t _ hk => State.flow_settleFlow_ne hk _ t)
    { s with m := s.m.retime s.tables.settings.timeoutTicks s.timeBase } ⟨rfl, rfl⟩ n
  have hflow := (State.flow_of_flows (t := s.retimeAll) (by simp [State.retimeAll]) n).trans each
  rw [hflow, Ctx.settle_pres, Ctx.retime_pres]
  rfl

/-- A retimed context M rests as it did (R55). -/
theorem Ctx.settled_retime_m {u : Settings} {now : Time} {c : Ctx} (h : c.settled (Params.ofSettings u) now) (timeout : Nat) :
    (c.retime timeout now).settled (Params.ofSettings u) now := by
  rw [Ctx.settled_iff] at h ⊢
  exact h.of_eq rfl rfl rfl rfl rfl rfl (by simp [Ctx.applicableHold_m])

/-! ## The Settings record -/

theorem decodeSettings_eq_some {bytes : List Byte} {u : Settings}
    (hu : u = { pathTimeout := wordAt bytes 0, managementHold := wordAt bytes 2, skewLimit := wordAt bytes 4,
                alarmMask := (wordAt bytes 6).truncate 12, notifyMask := (wordAt bytes 8).truncate 12 })
    (hr : u.inRange) : decodeSettings bytes = some u := by
  subst hu
  obtain ⟨h0, h1000, hhold, hlimit⟩ := hr
  unfold decodeSettings decodePositive
  dsimp only
  rw [if_neg (fun e => e.elim h0 (Nat.not_lt.mpr h1000)), if_neg hhold, if_neg hlimit]
  rfl

theorem runPutSettings_eq {c : Command} {s : State} {u : Settings} (h : decodeSettings c.args = some u) :
    runPutSettings c s = (s.writeSettings u).answer c .ok [] := by
  unfold runPutSettings
  rw [h]

/-- Settles O42. -/
theorem settingsAreReadAndWritten : Obligations.SettingsAreReadAndWritten := by
  intro s target tag args h ha
  refine ⟨congrArg Host.Outcome.next (State.agentTakes_done h rfl rfl rfl rfl rfl), fun u hu hr hm => ?_⟩
  have hrun : runCommand (handed 0x29 target tag args) s = (s.writeSettings u).replied tag 0x29 .ok [] :=
    runPutSettings_eq (c := handed 0x29 target tag args) (by rw [handed_args ha]; exact decodeSettings_eq_some hu hr)
  have ⟨_, _, hq, _, _, _⟩ := h
  obtain ⟨hsame, e⟩ | ⟨hnew, e⟩ := State.writeSettings_cases u s <;> rw [e] at hrun
  · exact ⟨fun _ => congrArg Host.Outcome.next (State.agentTakes_eq h hrun hq hm), fun hn => absurd hsame hn⟩
  · refine ⟨fun hs => absurd hs hnew, fun _ => ?_⟩
    obtain ⟨frame, -, -⟩ := State.retimeAll_onlyMerge (s.withSettings u)
    have hcommands : (s.withSettings u).retimeAll.agent.commands = [] := by
      rw [frame]
      exact hq
    have htables : (s.withSettings u).retimeAll.tables = { s.tables with settings := u } := by rw [frame]; rfl
    have htime : (s.withSettings u).retimeAll.timeBase = s.timeBase := by rw [frame]; rfl
    have hset : (s.withSettings u).retimeAll.m.settled (Params.ofSettings (s.withSettings u).retimeAll.tables.settings)
        (s.withSettings u).retimeAll.timeBase := by
      rw [htables, htime, State.retimeAll_m]
      exact Ctx.settled_retime_m hm _
    have hreplies : (s.withSettings u).retimeAll.agent.replies = s.agent.replies := by
      rw [frame]
      rfl
    have hstrap : (s.withSettings u).retimeAll.agent.strap = s.agent.strap := by
      rw [frame]
      rfl
    have hpres := State.pres_retimeAll (s.withSettings u)
    have hpresM : (s.withSettings u).retimeAll.m = s.m.retime (u.pathTimeout.toNat * 100000) s.timeBase :=
      State.retimeAll_m (s.withSettings u)
    generalize (s.withSettings u).retimeAll = v at hrun hcommands htables htime hset hreplies hstrap hpres hpresM
    refine ⟨_, congrArg Host.Outcome.next (State.agentTakes_eq h hrun hcommands hset), htables, ?_, hcommands, ?_⟩
    · unfold State.replied Agent.source
      rw [hreplies, hstrap]
    · intro retimed
      have hret : ∀ r : Presence, r.retime (u.pathTimeout.toNat * 100000) s.timeBase = retimed r := fun r => by
        obtain ⟨present, last, expiry⟩ := r
        cases present with
        | false => rfl
        | true =>
          cases last with
          | none => rfl
          | some stamp =>
            by_cases hx : u.pathTimeout.toNat * 100000 ≤ (s.timeBase - stamp).toNat
            · rw [Presence.retime_past hx]
              exact (if_pos hx).symm
            · rw [Presence.retime_waits (Nat.lt_of_not_le hx)]
              exact (if_neg hx).symm
      exact ⟨fun n p => (hpres n p).trans (hret _), fun p => by
        rw [← hret, ← Ctx.retime_pres]
        exact congrArg (Ctx.pres · p) hpresM⟩

end Sys2Proof.Machine
end

section
/-! PROOFS. The store's commands, the restarts, and what COMMIT_PENDING, STORE_BUSY and STORE_EMPTY refuse (R136, R170 to R172,
R190, R194, R200). -/

namespace Sys2Proof.Machine

open Sys2Proof

/-! ## The executions, case by case -/

section
variable {c : Command} {s : State} {waiting : Byte} {slot : Bool} {image : Image}

theorem runCommit_pending (h : s.tables.commit = .outstanding waiting) : runCommit c s = s.answer c .commitPending [] := by
  unfold runCommit; rw [h]

theorem runAbandon_pending (h : s.tables.commit = .outstanding waiting) : runAbandon c s = s.answer c .commitPending [] := by
  unfold runAbandon; rw [h]

theorem runPutEntry_pending (h : s.tables.commit = .outstanding waiting) : runPutEntry c s = s.answer c .commitPending [] := by
  unfold runPutEntry; rw [h]

theorem runPutSlots_pending (h : s.tables.commit = .outstanding waiting) : runPutSlots c s = s.answer c .commitPending [] := by
  unfold runPutSlots; rw [h]

theorem runPutCalHeader_pending (h : s.tables.commit = .outstanding waiting) :
    runPutCalHeader c s = s.answer c .commitPending [] := by
  unfold runPutCalHeader; rw [h]

theorem runLoad_pending (h : s.tables.commit = .outstanding waiting) : runLoad c s = s.answer c .commitPending [] := by
  unfold runLoad; rw [h]

theorem runLoad_busy (hc : s.tables.commit = .none) (h : s.store.state = .writing slot image) :
    runLoad c s = s.answer c .storeBusy [] := by
  unfold runLoad; rw [hc]; dsimp only; rw [h]

theorem runLoad_empty (hc : s.tables.commit = .none) (h : s.store.state = .idle) (hn : s.store.consult.newest = none) :
    runLoad c s = State.answer c .storeEmpty [] { s with store := s.store.consult } := by
  unfold runLoad; rw [hc]; dsimp only; rw [h]; dsimp only; rw [hn]

theorem runLoad_loads (hc : s.tables.commit = .none) (h : s.store.state = .idle)
    (hn : s.store.consult.newest = some (slot, image)) : runLoad c s =
      ((({ s with store := s.store.consult } : State).writePending image.bank).writeSettings image.settings).answer c .ok
        (encodeImage slot image.generation) := by
  unfold runLoad; rw [hc]; dsimp only; rw [h]; dsimp only; rw [hn]

theorem runSave_busy (h : s.store.state = .writing slot image) : runSave c s = s.answer c .storeBusy [] := by
  unfold runSave; rw [h]

theorem runSave_begins (h : s.store.state = .idle) : runSave c s = State.reservePlace c { s with
    store := { s.store.consult.setSlot s.store.consult.saveTarget.1 none with
      state := .writing s.store.consult.saveTarget.1
        (Image.form s.store.consult.saveTarget.2 s.tables.active s.tables.settings) } } := by
  unfold runSave; rw [h]

theorem runRestartFull_busy (h : s.store.state = .writing slot image) : runRestartFull c s = s.answer c .storeBusy [] := by
  unfold runRestartFull; rw [h]

theorem runRestartFull_waits (h : s.store.state = .idle) : runRestartFull c s = { s with agent := { s.agent with
    restartWaiting := true
    replies := s.agent.replies ++ [.filled { s.agent.reply c .ok [] with restartsFull := true }] } } := by
  unfold runRestartFull; rw [h]; rfl

end

/-! ## SAVE and LOAD -/

theorem Store.saveTarget_none {store : Store} (h : store.newest = none) : store.saveTarget = (false, 1) := by
  unfold Store.saveTarget; rw [h]

theorem Store.saveTarget_some {store : Store} {slot : Bool} {i : Image} (h : store.newest = some (slot, i)) :
    store.saveTarget = (!slot, i.generation + 1) := by
  unfold Store.saveTarget; rw [h]

theorem Store.setSlot_none (slot : Bool) (store : Store) : store.setSlot slot none = { store with
    slot0 := if slot then store.slot0 else none, slot1 := if slot then none else store.slot1 } := by
  cases slot <;> rfl

/-- The image a store judges the newest stands in one of its slots. -/
theorem Store.newest_consult_slot {store : Store} {slot : Bool} {i : Image} (hs : store.state = .idle)
    (h : store.consult.newest = some (slot, i)) : store.slot0 = some i ∨ store.slot1 = some i := by
  obtain h | h | ⟨w, hw⟩ := Store.mem_images.mp (Store.mem_images_consult (Store.newest_mem_images h))
  · exact .inl h
  · exact .inr h
  · rw [hs] at hw
    cases hw

/-- Settles O45. -/
theorem saveAndLoad : Obligations.SaveAndLoad := by
  intro s target tag args h ha hs judged
  refine ⟨?_, fun hc himg => ?_⟩
  · intro slot generation
    have htarget : judged.saveTarget = (slot, generation) := by
      cases hn : judged.newest with
      | none => rw [Store.saveTarget_none hn]; simp only [slot, generation, hn]
      | some x =>
        obtain ⟨newest, i⟩ := x
        rw [Store.saveTarget_some hn]
        simp only [slot, generation, hn]
    have hrun := runSave_begins (c := handed 0x38 target tag args) hs
    rw [show s.store.consult.saveTarget = (slot, generation) from htarget, reservePlace_handed, Store.setSlot_none] at hrun
    exact congrArg Host.Outcome.next (State.agentTakes_done (code := 0x38) h hrun rfl rfl rfl rfl)
  · cases hn : judged.newest with
    | none =>
      exact congrArg Host.Outcome.next (State.agentTakes_done (code := 0x39) h
        (runLoad_empty (c := handed 0x39 target tag args) hc hs hn) rfl rfl rfl rfl)
    | some x =>
      obtain ⟨slot, i⟩ := x
      obtain ⟨htimeout, hm⟩ := himg i (Store.newest_consult_slot hs hn)
      have hrun := runLoad_loads (c := handed 0x39 target tag args) hc hs hn
      have hwrite : (({ s with store := s.store.consult } : State).writePending i.bank).writeSettings i.settings
          = { s with store := s.store.consult, tables := { s.tables with pendingBank := i.bank, settings := i.settings } } :=
        if_pos htimeout
      rw [hwrite, answer_handed] at hrun
      have ⟨_, _, hq, _, _, _⟩ := h
      exact congrArg Host.Outcome.next (State.agentTakes_eq (code := 0x39) h hrun hq hm)

/-! ## The restarts -/

/-- A traffic restart leaves no condition of the Merge Engine or the pool holding (R186, R200). -/
theorem State.trafficRestart_exact (s : State) : s.trafficRestart = { s.restartedTraffic with
    alarms := { s.alarms with holding := s.alarms.holding &&& ~~~ (AlarmKind.poolEmpty.mask
      ||| AlarmKind.flowUnprotected.mask ||| AlarmKind.flowSilent.mask) } } := by
  have hflows : ∀ n, ((s.restartedTraffic.report .poolEmpty false).flow n).state ≠ .running := fun n => by
    rw [State.report_false]
    have hn : s.restartedTraffic.flow n = Ctx.restart (s.tables.active.entry n) := Bank.freshFlows_flow (s := s.restartedTraffic) rfl n
    show (s.restartedTraffic.flow n).state ≠ .running
    rw [hn]
    unfold Ctx.restart Ctx.fresh
    split <;> simp
  rw [State.trafficRestart_eq, State.reportFlows_none hflows, State.report_false]
  dsimp only
  rw [BitVec.and_assoc, ← BitVec.not_or, BitVec.or_assoc]
  rfl

/-- Settles O46. -/
theorem restartsFullAndTraffic : Obligations.RestartsFullAndTraffic := by
  intro s target tag kind rest h hr
  have ⟨_, _, hq, _, _, hm⟩ := h
  have hlen : ∀ k : Byte, (k :: rest).length = 49 := fun k => congrArg (· + 1) hr
  have hkind : ∀ k : Byte, (handed 0x3C target tag (k :: rest)).arg 0 = k := fun k => handed_arg 0 (hlen k)
  refine ⟨fun hs => ?_, fun hk => ?_⟩
  · have hrun := runCommand_restart target tag (restartFullKind :: rest) s
    rw [if_pos (hkind _), runRestartFull_waits hs] at hrun
    exact congrArg Host.Outcome.next (State.agentTakes_eq (code := 0x3C) h hrun hq hm)
  · have hrun := runCommand_restart target tag (kind :: rest) s
    rw [if_neg (by rw [hkind]; exact hk)] at hrun
    have hx : runRestartTraffic (handed 0x3C target tag (kind :: rest)) s = s.trafficRestart.replied tag 0x3C .ok [] := rfl
    rw [hx, State.trafficRestart_exact] at hrun
    exact congrArg Host.Outcome.next (State.agentTakes_eq (code := 0x3C) h hrun hq
      (Ctx.micro_idle (c := Ctx.fresh .unseeded 0) _ _ (by simp [Ctx.fresh]) (by simp [Ctx.fresh])))

/-! ## Refusals -/

/-- Settles O47: each refusal is the first branch its command's execution takes. -/
theorem commitAndStoreRefusals : Obligations.CommitAndStoreRefusals := by
  intro s i code target tag args h hi ha
  have refused : ∀ st : Status, runCommand (handed code target tag args) s = s.replied tag code st [] →
      exec i s = .next (s.replied tag code st []) := fun st hrun => by
    rw [exec_handed hi, State.agentTakes_done h hrun rfl rfl rfl rfl]
  refine ⟨fun waiting hmem hc => refused _ ?_, fun slot image hw hcode => refused _ ?_, fun hcode hc hs hn => ?_⟩
  · simp only [List.mem_cons, List.not_mem_nil, or_false] at hmem
    obtain rfl | rfl | rfl | rfl | rfl | rfl := hmem
    · exact runPutEntry_pending (c := handed 0x11 target tag args) hc
    · exact runPutSlots_pending (c := handed 0x13 target tag args) hc
    · exact runPutCalHeader_pending (c := handed 0x14 target tag args) hc
    · exact runCommit_pending (c := handed 0x18 target tag args) hc
    · exact runAbandon_pending (c := handed 0x19 target tag args) hc
    · exact runLoad_pending (c := handed 0x39 target tag args) hc
  · obtain rfl | ⟨rfl, hc⟩ | ⟨rfl, hk⟩ := hcode
    · exact runSave_busy (c := handed 0x38 target tag args) hw
    · exact runLoad_busy (c := handed 0x39 target tag args) hc hw
    · have hk' : (handed 0x3C target tag args).arg 0 = restartFullKind := (handed_arg 0 ha).trans hk
      rw [runCommand_restart, if_pos hk']
      exact runRestartFull_busy (c := handed 0x3C target tag args) hw
  · subst hcode
    rw [exec_handed hi]
    exact congrArg Host.Outcome.next (State.agentTakes_done h
      (runLoad_empty (c := handed 0x39 target tag args) hc hs hn) rfl rfl rfl rfl)

end Sys2Proof.Machine
end

section
/-! PROOFS. What BAD_ARGUMENT refuses (R10, R11, R44, R132, R164, R166, R203), and that the table encodings decode back (R203):
the range of each field's decoding. -/

namespace Sys2Proof.Machine

open Sys2Proof

/-! ## The range of each field -/

theorem decodeFlag_range {b : Byte} {v : Bool} (h : decodeFlag b = some v) : b.toNat ≤ 1 := by
  unfold decodeFlag at h
  split at h
  · next e => rw [e]; decide
  · split at h
    · next e => rw [e]; decide
    · cases h

theorem decodeLabel_range {w : BitVec 16} {l : Label} (h : decodeLabel w = some l) : w.toNat ≤ 4094 := by
  unfold decodeLabel at h
  split at h
  · assumption
  · cases h

theorem decodePolicy_range {b : Byte} {v : Policy} (h : decodePolicy b = some v) : b.toNat ≤ 2 := by
  unfold decodePolicy at h
  split at h
  · next e => rw [e]; decide
  · split at h
    · next e => rw [e]; decide
    · split at h
      · next e => rw [e]; decide
      · cases h

theorem decodeWindow_range {b : Byte} {v : Window} (h : decodeWindow b = some v) : b.toNat ≤ 4 := by
  unfold decodeWindow at h
  split at h
  · next e => rw [e]; decide
  · split at h
    · next e => rw [e]; decide
    · split at h
      · next e => rw [e]; decide
      · split at h
        · next e => rw [e]; decide
        · split at h
          · next e => rw [e]; decide
          · cases h

theorem decodeClass_range {b : Byte} {v : Fin 8} (h : decodeClass b = some v) : b.toNat ≤ 7 := by
  unfold decodeClass at h
  split at h
  · next e => exact Nat.le_of_lt_succ e
  · cases h

theorem decodePositive_nonzero {w v : BitVec 16} (h : decodePositive w = some v) : w ≠ 0 := by
  unfold decodePositive at h
  split at h
  · cases h
  · assumption

theorem decodeQuota_limits {w v : BitVec 16} (h : decodeQuota w = some v) : w ≠ 0 ∧ w.toNat ≤ 2048 := by
  unfold decodeQuota at h
  split at h
  · cases h
  · next e => exact ⟨fun e0 => e (.inl e0), Nat.le_of_not_lt fun e1 => e (.inr e1)⟩

theorem decodeSlot_range {b : Byte} {v : Slot} (h : decodeSlot b = some v) : b = 0xFF ∨ b.toNat ≤ 7 := by
  unfold decodeSlot at h
  split at h
  · exact .inl ‹_›
  · obtain ⟨c, hc, -⟩ := Option.map_eq_some_iff.mp h
    exact .inr (decodeClass_range hc)

/-- Every field of the bytes an entry decodes from names a value of its range (R1, R203). -/
theorem decodeEntry_range {bytes : List Byte} {i : Nat} {e : Entry} (h : decodeEntry bytes i = some e) :
    (byteAt bytes i).toNat ≤ 1 ∧ (wordAt bytes (i + 1)).toNat ≤ 4094 ∧ (wordAt bytes (i + 3)).toNat ≤ 4094 ∧
      (byteAt bytes (i + 5)).toNat ≤ 2 ∧ (byteAt bytes (i + 6)).toNat ≤ 4 ∧ wordAt bytes (i + 7) ≠ 0 ∧
      (wordAt bytes (i + 11) ≠ 0 ∧ (wordAt bytes (i + 11)).toNat ≤ 2048) ∧ (byteAt bytes (i + 13)).toNat ≤ 7 ∧
      (byteAt bytes (i + 14)).toNat ≤ 1 ∧ (byteAt bytes (i + 15)).toNat ≤ 1 := by
  unfold decodeEntry at h
  split at h
  · next hvalid hin hout hpolicy hwindow hhold hquota hcls hrenumber hrestamp =>
    exact ⟨decodeFlag_range hvalid, decodeLabel_range hin, decodeLabel_range hout, decodePolicy_range hpolicy,
      decodeWindow_range hwindow, decodePositive_nonzero hhold, decodeQuota_limits hquota, decodeClass_range hcls,
      decodeFlag_range hrenumber, decodeFlag_range hrestamp⟩
  · cases h

theorem decodeSlots_range {bytes : List Byte} : ∀ {n i : Nat} {slots : List Slot}, decodeSlots bytes i n = some slots →
    ∀ k < n, byteAt bytes (i + k) = 0xFF ∨ (byteAt bytes (i + k)).toNat ≤ 7
  | n + 1, i, slots, h, k, hk => by
    unfold decodeSlots at h
    split at h
    · next hslot hrest =>
      cases k with
      | zero => exact decodeSlot_range hslot
      | succ k =>
        have := decodeSlots_range hrest k (Nat.lt_of_succ_lt_succ hk)
        rwa [Nat.add_assoc, Nat.add_comm 1 k] at this
    · cases h

theorem decodeHeader_limits {length lend : Byte} {x : Nat × Bool} (h : decodeHeader length lend = some x) :
    1 ≤ length.toNat ∧ length.toNat ≤ 128 ∧ lend.toNat ≤ 1 := by
  unfold decodeHeader at h
  split at h
  · next hl =>
    split at h
    · next hr => exact ⟨hr.1, hr.2, decodeFlag_range hl⟩
    · cases h
  · cases h

theorem decodeContext_range {b : Byte} {i : ContextId} (h : decodeContext b = some i) : b.toNat ≤ 128 := by
  unfold decodeContext at h
  split at h
  · next n hn =>
    rw [(decodeIndex_eq_some_iff _ _).mp hn]
    exact Nat.le_of_lt n.isLt
  · split at h
    · next e => rw [e]; decide
    · cases h

theorem decodeSettings_limits {bytes : List Byte} {u : Settings} (h : decodeSettings bytes = some u) :
    wordAt bytes 0 ≠ 0 ∧ (wordAt bytes 0).toNat ≤ 1000 ∧ wordAt bytes 2 ≠ 0 ∧ wordAt bytes 4 ≠ 0 := by
  simp only [decodeSettings] at h
  split at h
  · cases h
  · next ht =>
    split at h
    · next hhold hlimit =>
      exact ⟨fun e => ht (.inl e), Nat.le_of_not_lt fun e => ht (.inr e), decodePositive_nonzero hhold,
        decodePositive_nonzero hlimit⟩
    · cases h

/-- A decoding whose range fails answers none. -/
theorem decode_eq_none {α : Type} {o : Option α} {P : Prop} (h : ∀ {x}, o = some x → P) (hn : ¬ P) : o = none := by
  cases ho : o with
  | none => rfl
  | some x => exact absurd (h ho) hn

theorem Tables.bank_range {t : Tables} {b : Byte} {bank : Bank} (h : t.bank b = some bank) : b.toNat ≤ 1 := by
  unfold Tables.bank at h
  split at h
  · next e => rw [e]; decide
  · split at h
    · next e => rw [e]; decide
    · cases h

/-! ## The executions refuse -/

section
variable {c : Command} {s : State}

theorem runGetEntry_refused (h : s.tables.bank (c.arg 0) = none ∨ decodeIndex (c.arg 1) = none) :
    runGetEntry c s = s.answer c .badArgument [] := by
  unfold runGetEntry
  split
  · next hb hn => rw [hb, hn] at h; simp at h
  · rfl

theorem runGetSlots_refused (h : s.tables.bank (c.arg 0) = none ∨ slotRangeOk (c.arg 1).toNat (c.arg 2).toNat = false) :
    runGetSlots c s = s.answer c .badArgument [] := by
  unfold runGetSlots
  split
  · next hb =>
    rw [hb] at h
    rw [if_neg (Bool.eq_false_iff.mp (h.resolve_left (by simp)))]
  · rfl

theorem runPutEntry_refused (hc : s.tables.commit = .none) (h : decodeIndex (c.arg 0) = none ∨ decodeEntry c.args 1 = none) :
    runPutEntry c s = s.answer c .badArgument [] := by
  unfold runPutEntry
  rw [hc]
  dsimp only
  split
  · next hn he => rw [hn, he] at h; simp at h
  · rfl

theorem runPutSlots_refused (hc : s.tables.commit = .none)
    (h : slotRangeOk (c.arg 0).toNat (c.arg 1).toNat = false ∨ decodeSlots c.args 2 (c.arg 1).toNat = none) :
    runPutSlots c s = s.answer c .badArgument [] := by
  unfold runPutSlots
  rw [hc]
  dsimp only
  split
  · next hr => rw [(h.resolve_left (by simp [hr]))]
  · rfl

theorem runPutCalHeader_refused (hc : s.tables.commit = .none) (h : decodeHeader (c.arg 0) (c.arg 1) = none) :
    runPutCalHeader c s = s.answer c .badArgument [] := by
  unfold runPutCalHeader
  rw [hc]
  dsimp only
  rw [h]

theorem runGetCounters_refused (h : decodeContext (c.arg 0) = none ∨ 2 < (c.arg 1).toNat) :
    runGetCounters c s = s.answer c .badArgument [] := by
  unfold runGetCounters
  split
  · next hi => exact if_neg (Nat.not_le.mpr (h.resolve_left (by simp [hi])))
  · rfl

theorem runPutSettings_refused (h : decodeSettings c.args = none) : runPutSettings c s = s.answer c .badArgument [] := by
  unfold runPutSettings
  rw [h]

end

theorem slotRangeOk_eq_false {first count : Nat} (h : count = 0 ∨ 32 < count ∨ 128 < first + count) :
    slotRangeOk first count = false := by
  rw [Bool.eq_false_iff, Ne, slotRangeOk_iff]
  omega

/-- Settles O48: a field out of range decodes to nothing, and the execution refuses. -/
theorem badArgumentRefusals : Obligations.BadArgumentRefusals := by
  intro s target tag args h ha refused
  have done : ∀ {i : Instr} {code : Byte}, handsOver i = some (code, target, tag, args) →
      runCommand (handed code target tag args) s = (handed code target tag args |> fun c => s.answer c .badArgument []) →
      exec i s = .next (refused code) := fun hi hrun => by
    rw [exec_handed hi, State.agentTakes_done h hrun rfl rfl rfl rfl]
    rfl
  refine ⟨fun hx => done rfl (runGetEntry_refused (c := handed 0x10 target tag args) ?_),
    fun hx => done rfl (runGetSlots_refused (c := handed 0x12 target tag args) ?_),
    fun hc hx => done rfl (runPutEntry_refused (c := handed 0x11 target tag args) hc ?_),
    fun hc hx => done rfl (runPutSlots_refused (c := handed 0x13 target tag args) hc ?_),
    fun hc hx => done rfl (runPutCalHeader_refused (c := handed 0x14 target tag args) hc ?_),
    fun hx => done rfl (runGetCounters_refused (c := handed 0x20 target tag args) ?_),
    fun hx => done rfl (runPutSettings_refused (c := handed 0x29 target tag args) ?_),
    fun hx => exec_resetFlow_refused h ha hx⟩
  · rw [handed_arg 0 ha, handed_arg 1 ha]
    exact hx.imp (fun hb => decode_eq_none Tables.bank_range (Nat.not_le.mpr hb)) (decodeIndex_eq_none_iff _).mpr
  · rw [handed_arg 0 ha, handed_arg 1 ha, handed_arg 2 ha]
    exact hx.imp (fun hb => decode_eq_none Tables.bank_range (Nat.not_le.mpr hb)) slotRangeOk_eq_false
  · rw [handed_arg 0 ha, handed_args ha]
    refine hx.imp (decodeIndex_eq_none_iff _).mpr fun hx => decode_eq_none decodeEntry_range ?_
    rintro ⟨h1, h2, h3, h4, h5, h6, ⟨h7, h8⟩, h9, h10, h11⟩
    simp only [Nat.reduceAdd] at h2 h3 h4 h5 h6 h7 h8 h9 h10 h11
    simp only [Nat.not_lt.mpr h1, Nat.not_lt.mpr h2, Nat.not_lt.mpr h3, Nat.not_lt.mpr h4, Nat.not_lt.mpr h5, h6, h7,
      Nat.not_lt.mpr h8, Nat.not_lt.mpr h9, Nat.not_lt.mpr h10, Nat.not_lt.mpr h11, or_self] at hx
  · rw [handed_arg 0 ha, handed_arg 1 ha, handed_args ha]
    obtain hx | hx | hx | ⟨i, hi, hne, hlt⟩ := hx
    · exact .inl (slotRangeOk_eq_false (.inl hx))
    · exact .inl (slotRangeOk_eq_false (.inr (.inl hx)))
    · exact .inl (slotRangeOk_eq_false (.inr (.inr hx)))
    · exact .inr (decode_eq_none decodeSlots_range fun hr => (hr i hi).elim hne (Nat.not_le.mpr hlt))
  · rw [handed_arg 0 ha, handed_arg 1 ha]
    exact decode_eq_none decodeHeader_limits fun ⟨h1, h128, hl⟩ => by omega
  · rw [handed_arg 0 ha, handed_arg 1 ha]
    exact hx.imp_left fun hb => decode_eq_none decodeContext_range (Nat.not_le.mpr hb)
  · rw [handed_args ha]
    refine decode_eq_none decodeSettings_limits fun ⟨h0, h1000, hhold, hlimit⟩ => ?_
    obtain hx | hx | hx | hx := hx
    · exact h0 hx
    · exact Nat.not_le.mpr hx h1000
    · exact hhold hx
    · exact hlimit hx

end Sys2Proof.Machine
end

section
/-! PROOFS. The encodings of an entry and of the Settings record decode back (R1, R11, R203): each field stands at its bytes. -/

namespace Sys2Proof.Machine

open Sys2Proof

/-! ## Bytes and fields of a list between two others -/

section
variable {before l after : List Byte}

theorem byteAt_between {k : Nat} (h : k < l.length) : byteAt (before ++ l ++ after) (before.length + k) = byteAt l k := by
  unfold byteAt
  rw [List.getD_eq_getElem?_getD, List.getD_eq_getElem?_getD, List.append_assoc, List.getElem?_append_right (Nat.le_add_right _ _),
    Nat.add_sub_cancel_left, List.getElem?_append_left h]

theorem wordAt_between {k : Nat} (h : k + 1 < l.length) : wordAt (before ++ l ++ after) (before.length + k) = wordAt l k := by
  unfold wordAt
  rw [byteAt_between (Nat.lt_of_succ_lt h), Nat.add_assoc, byteAt_between h]

end

/-- Two bytes, most significant first, spell their number (section 12.3). -/
theorem word_of_bytes {v : Nat} (h : v < 65536) :
    (BitVec.ofNat 8 (v >>> (8 * 1)) ++ BitVec.ofNat 8 (v >>> (8 * 0)) : BitVec 16) = BitVec.ofNat 16 v := by
  apply BitVec.eq_of_toNat_eq
  rw [BitVec.toNat_append, ← Nat.shiftLeft_add_eq_or_of_lt (BitVec.ofNat 8 (v >>> (8 * 0))).isLt]
  simp only [BitVec.toNat_ofNat, Nat.shiftLeft_eq, Nat.shiftRight_eq_div_pow]
  omega

theorem word_of_word (w : BitVec 16) :
    (BitVec.ofNat 8 (w.toNat >>> (8 * 1)) ++ BitVec.ofNat 8 (w.toNat >>> (8 * 0)) : BitVec 16) = w := by
  rw [word_of_bytes w.isLt, BitVec.ofNat_toNat, BitVec.setWidth_eq]

/-! ## Each field decodes back -/

theorem decodeFlag_encode (b : Bool) : decodeFlag (encodeFlag b) = some b := by cases b <;> rfl

theorem decodePolicy_encode (p : Policy) : decodePolicy p.byte = some p := by cases p <;> rfl

theorem decodeWindow_encode (w : Window) : decodeWindow w.byte = some w := by cases w <;> rfl

theorem decodeClass_encode (c : Fin 8) : decodeClass (BitVec.ofNat 8 c.val) = some c := by
  have hc : (BitVec.ofNat 8 c.val).toNat = c.val := by
    rw [BitVec.toNat_ofNat]
    exact Nat.mod_eq_of_lt (Nat.lt_trans c.isLt (by decide))
  unfold decodeClass
  rw [dif_pos (by rw [hc]; exact c.isLt)]
  exact congrArg some (Fin.ext hc)

theorem decodeLabel_encode {l : Label} (h : l ≠ managementLabel) : decodeLabel (BitVec.ofNat 16 l.toNat) = some l := by
  have hlt : l.toNat < 4096 := l.isLt
  have hne : l.toNat ≠ 4095 := fun e => h (BitVec.eq_of_toNat_eq e)
  have hl : (BitVec.ofNat 16 l.toNat).toNat = l.toNat := by
    rw [BitVec.toNat_ofNat]
    exact Nat.mod_eq_of_lt (Nat.lt_trans hlt (by decide))
  unfold decodeLabel
  rw [if_pos (by rw [hl]; omega)]
  exact congrArg some (BitVec.eq_of_toNat_eq (by rw [BitVec.truncate_eq_setWidth, BitVec.toNat_setWidth, hl, Nat.mod_eq_of_lt hlt]))

theorem decodePositive_eq {w : BitVec 16} (h : w ≠ 0) : decodePositive w = some w := if_neg h

theorem decodeQuota_eq {w : BitVec 16} (h : w ≠ 0) (hl : w.toNat ≤ 2048) : decodeQuota w = some w :=
  if_neg fun e => e.elim h (Nat.not_lt.mpr hl)

theorem decodeKinds_encode (a : AlarmSet) : decodeKinds (BitVec.ofNat 16 a.toNat) = a := by
  have ha : a.toNat < 4096 := a.isLt
  apply BitVec.eq_of_toNat_eq
  unfold decodeKinds
  rw [BitVec.truncate_eq_setWidth, BitVec.toNat_setWidth, BitVec.toNat_ofNat]
  omega

/-! ## The two records -/

/-- The fields of an entry's sixteen bytes (section 12.3). -/
theorem encodeEntry_fields (e : Entry) :
    byteAt (encodeEntry e) 0 = encodeFlag e.valid ∧ wordAt (encodeEntry e) 1 = BitVec.ofNat 16 e.inLabel.toNat ∧
      wordAt (encodeEntry e) 3 = BitVec.ofNat 16 e.outLabel.toNat ∧ byteAt (encodeEntry e) 5 = e.policy.byte ∧
      byteAt (encodeEntry e) 6 = e.window.byte ∧ wordAt (encodeEntry e) 7 = e.hold ∧ wordAt (encodeEntry e) 9 = e.loneHold ∧
      wordAt (encodeEntry e) 11 = e.quota ∧ byteAt (encodeEntry e) 13 = BitVec.ofNat 8 e.cls.val ∧
      byteAt (encodeEntry e) 14 = encodeFlag e.renumber ∧ byteAt (encodeEntry e) 15 = encodeFlag e.restamp :=
  ⟨rfl, word_of_bytes (Nat.lt_trans e.inLabel.isLt (by decide)), word_of_bytes (Nat.lt_trans e.outLabel.isLt (by decide)), rfl,
    rfl, word_of_word e.hold, word_of_word e.loneHold, word_of_word e.quota, rfl, rfl, rfl⟩

theorem encodeEntry_length (e : Entry) : (encodeEntry e).length = 16 := rfl

theorem decodeEntry_encode {e : Entry} (h : e.inRange) (before after : List Byte) :
    decodeEntry (before ++ encodeEntry e ++ after) before.length = some e := by
  obtain ⟨hin, hout, hhold, hq, hq2048⟩ := h
  obtain ⟨b0, w1, w3, b5, b6, w7, w9, w11, b13, b14, b15⟩ := encodeEntry_fields e
  have len : ∀ {k : Nat}, k < 16 → k < (encodeEntry e).length := fun h => by rw [encodeEntry_length]; exact h
  have b0' : byteAt (before ++ encodeEntry e ++ after) before.length = encodeFlag e.valid :=
    (byteAt_between (k := 0) (len (by decide))).trans b0
  unfold decodeEntry
  rw [b0', wordAt_between (len (by decide)), wordAt_between (len (by decide)), byteAt_between (len (by decide)),
    byteAt_between (len (by decide)), wordAt_between (len (by decide)), wordAt_between (len (by decide)),
    wordAt_between (len (by decide)), byteAt_between (len (by decide)), byteAt_between (len (by decide)),
    byteAt_between (len (by decide)), w1, w3, b5, b6, w7, w9, w11, b13, b14, b15, decodeFlag_encode, decodeLabel_encode hin,
    decodeLabel_encode hout, decodePolicy_encode, decodeWindow_encode, decodePositive_eq hhold, decodeQuota_eq hq hq2048,
    decodeClass_encode, decodeFlag_encode, decodeFlag_encode]

/-- The fields of a Settings record's ten bytes (section 12.3). -/
theorem encodeSettings_fields (u : Settings) (after : List Byte) :
    wordAt (encodeSettings u ++ after) 0 = u.pathTimeout ∧ wordAt (encodeSettings u ++ after) 2 = u.managementHold ∧
      wordAt (encodeSettings u ++ after) 4 = u.skewLimit ∧
      wordAt (encodeSettings u ++ after) 6 = BitVec.ofNat 16 u.alarmMask.toNat ∧
      wordAt (encodeSettings u ++ after) 8 = BitVec.ofNat 16 u.notifyMask.toNat :=
  ⟨word_of_word _, word_of_word _, word_of_word _, word_of_bytes (Nat.lt_trans u.alarmMask.isLt (by decide)),
    word_of_bytes (Nat.lt_trans u.notifyMask.isLt (by decide))⟩

theorem decodeSettings_encode {u : Settings} (h : u.inRange) (after : List Byte) :
    decodeSettings (encodeSettings u ++ after) = some u := by
  obtain ⟨w0, w2, w4, w6, w8⟩ := encodeSettings_fields u after
  refine decodeSettings_eq_some ?_ h
  rw [w0, w2, w4, w6, w8]
  show u = { pathTimeout := _, managementHold := _, skewLimit := _, alarmMask := decodeKinds _, notifyMask := decodeKinds _ }
  rw [decodeKinds_encode, decodeKinds_encode]

/-- Settles O49. -/
theorem tableEncodingsRoundTrip : Obligations.TableEncodingsRoundTrip :=
  ⟨fun _ before after h => decodeEntry_encode h before after, fun _ after h => decodeSettings_encode h after⟩

end Sys2Proof.Machine
end

section
/-! PROOFS. Presence expiry (R52), the commit release (R141), and the steps whose cause is absent (assumption 7). -/

namespace Sys2Proof.Machine

open Sys2Proof

/-! ## Presence expiry -/

theorem Presence.expired_eq_true {timeout : Nat} {now stamp : Time} {r : Presence} (hp : r.present = true)
    (hl : r.last = some stamp) (h : timeout ≤ (now - stamp).toNat) : r.expired timeout now = true := by
  unfold Presence.expired
  rw [hl, hp]
  exact decide_eq_true h

/-- One flow changed within its class: that flow, and nothing but its ring and alarms (R57, R64, R65). -/
theorem State.onlyFlow_changeFlow {n : Index} {f : Ctx → Ctx} {s : State}
    (hc : (f (s.flow n)).servingClass = (s.flow n).servingClass) : State.onlyFlow n s (s.changeFlow n f) :=
  State.onlyFlow_trans (State.onlyFlow_settleFlow hc) (State.onlyFlow_onlyAlarms (State.reportFlows_onlyAlarms _))
    (fun k _ => by
      show (s.settleFlow n (f (s.flow n))).reportFlows.ring k = _
      rw [(State.reportFlows_onlyAlarms _).1]
      rfl)

theorem State.flow_changeFlow_self {s : State} (h : s.flows.length = 128) (n : Index) (f : Ctx → Ctx) :
    (s.changeFlow n f).flow n = (Ctx.settle (s.entry n) s.timeBase (f (s.flow n))).1 :=
  (State.flow_of_flows (by simp [State.changeFlow]) n).trans (State.flow_settleFlow_self h n _)

theorem exec_presenceExpiry_due {s : State} {i : ContextId} {p : Path} {d : Time}
    (h : (((s.advance d).ctx i).pres p).expired (s.advance d).tables.settings.timeoutTicks (s.advance d).timeBase = true) :
    exec (.presenceExpiry i p d) s = .next ((s.advance d).expirePresence i p) :=
  congrArg Host.Outcome.next (if_pos h)

/-- Settles O21. -/
theorem presenceExpiryMakesPathAbsent : Obligations.PresenceExpiryMakesPathAbsent := by
  intro s p d stamp s1 hl hdue
  have hflows : s1.flows = s.flows := by simp [s1]
  have htab : s1.tables = s.tables := by simp [s1]
  have hm : s1.m = s.m := by simp [s1]
  refine ⟨fun n hpres hlast => ?_, fun hpres hlast => ?_⟩
  · have hflow : s1.flow n = s.flow n := State.flow_of_flows hflows n
    have hx : ((s1.ctx (.flow n)).pres p).expired s1.tables.settings.timeoutTicks s1.timeBase = true := by
      rw [htab]
      exact Presence.expired_eq_true (by rw [← hpres, ← hflow]; rfl) (by rw [← hlast, ← hflow]; rfl) hdue
    obtain ⟨habsent, hother⟩ := Ctx.markAbsent_pres p (s1.flow n)
    refine ⟨_, exec_presenceExpiry_due hx, ?_, ?_, State.onlyFlow_changeFlow (by simp [Ctx.markAbsent])⟩
    · show (State.flow _ n).pres p = _
      rw [State.expirePresence, State.flow_changeFlow_self (by rw [← hl]; exact congrArg List.length hflows), Ctx.settle_pres, habsent,
        hflow]
      dsimp only
      rw [hlast]
    · show (State.flow _ n).pres _ = _
      rw [State.expirePresence, State.flow_changeFlow_self (by rw [← hl]; exact congrArg List.length hflows), Ctx.settle_pres, hother,
        hflow]
  · have hx : ((s1.ctx .m).pres p).expired s1.tables.settings.timeoutTicks s1.timeBase = true := by
      rw [htab]
      exact Presence.expired_eq_true (by rw [← hpres, ← hm]; rfl) (by rw [← hlast, ← hm]; rfl) hdue
    rw [exec_presenceExpiry_due hx]
    show Host.Outcome.next { s1 with m := s1.m.setPres p (s1.m.pres p).drop } = _
    rw [hm, Presence.drop, hlast]

/-! ## The commit release -/

/-- The commit release of held records is their release in order with the gaps between them given up (R141). -/
theorem Ctx.releaseAll_cons (e : Entry) : ∀ (h : HeldRec) (rest : List HeldRec) (c : Ctx),
    Ctx.releaseAll e (h :: rest) c = c.afterRun e 0 (h :: rest) []
  | h, [], c => by
    have hnil := Ctx.afterRun_nil e 0 [] ((c.passRec h []).enqueue e h.buffer) (Ctx.passRec_history h [] c)
    rw [Ctx.afterRun_passRec] at hnil
    exact hnil.symm
  | h, r :: rest, c => by
    have ih := Ctx.releaseAll_cons e r rest ((c.passRec h (r :: rest)).enqueue e h.buffer)
    rw [Ctx.afterRun_passRec] at ih
    exact ih

/-- What of a released record stands in the queue whatever the renumbering. -/
theorem sentAs_map (e : Entry) : ∀ (run : List HeldRec) (renumber : Seq),
    (sentAs e renumber run).map (fun b => (b.cell.label, b.cell.payload, b.path, b.stamp))
      = run.map (fun h => (e.outLabel, h.buffer.cell.payload, h.buffer.path, h.buffer.stamp))
  | [], _ => rfl
  | h :: run, renumber => by
    rw [sentAs_cons, List.map_cons, sentAs_map e run, List.map_cons]
    rfl

theorem gapsBelow_le : ∀ (nes : Seq) (run : List HeldRec), gapsBelow nes run ≤ 65535 * run.length
  | _, [] => Nat.le_refl _
  | nes, h :: rest => by
    have h1 := gapsBelow_le (h.buffer.cell.seq + 1) rest
    have h2 := seqDist_lt nes h.buffer.cell.seq
    rw [gapsBelow, List.length_cons]
    omega

/-- Where the commit release begins: at NES in RUNNING, at the lowest held number in SEEDING (R141). -/
def Ctx.commitStart (c : Ctx) : Ctx := if c.state = .seeding then c.endSeeding else c

theorem Ctx.commitRelease_eq (e : Entry) (c : Ctx) : c.commitRelease e =
    ({ Ctx.releaseAll e c.commitStart.held c.commitStart with gapDeadline := none, seedingDeadline := none },
      (Ctx.releaseAll e c.commitStart.held c.commitStart).counters.lost != c.counters.lost) := rfl

/-- The end of seeding leaves the held set, the queue and the counters (R30). -/
theorem Ctx.commitStart_keeps (c : Ctx) : c.commitStart.held = c.held ∧ c.commitStart.queue = c.queue ∧
    c.commitStart.counters = c.counters ∧ c.commitStart.renumber = c.renumber ∧ c.commitStart.presA = c.presA ∧
    c.commitStart.presB = c.presB ∧ c.commitStart.skew = c.skew ∧ c.commitStart.servingClass = c.servingClass := by
  unfold Ctx.commitStart Ctx.endSeeding
  split
  · cases hh : c.held <;> exact ⟨by simp, rfl, rfl, rfl, rfl, rfl, rfl, rfl⟩
  · exact ⟨rfl, rfl, rfl, rfl, rfl, rfl, rfl, rfl⟩

theorem Ctx.commitStart_nes {c : Ctx} {h : HeldRec} {rest : List HeldRec} (hs : c.state = .seeding)
    (hh : c.held = h :: rest) : c.commitStart.nes = h.buffer.cell.seq := by
  unfold Ctx.commitStart
  rw [if_pos hs, Ctx.endSeeding_cons hh]

theorem Ctx.commitStart_running {c : Ctx} (hs : c.state = .running) : c.commitStart = c := by
  unfold Ctx.commitStart
  rw [if_neg (by rw [hs]; decide)]

theorem Ctx.commitStart_empty_nes {c : Ctx} (hh : c.held = []) : c.commitStart.nes = c.nes := by
  unfold Ctx.commitStart
  split
  · rw [Ctx.endSeeding_nil hh]
  · rfl

theorem ofNat_ne_zero_iff {k : Nat} (h : k < 4294967296) (lost : Count) :
    (lost + BitVec.ofNat 32 k != lost) = true ↔ k ≠ 0 := by
  rw [bne_iff_ne, Ne, Ne, not_iff_not]
  refine ⟨fun e => ?_, fun e => by simp [e]⟩
  have h0 : BitVec.ofNat 32 k = 0 := by simpa using e
  have := congrArg BitVec.toNat h0
  rw [BitVec.toNat_ofNat, Nat.mod_eq_of_lt h] at this
  exact this

/-- Settles O23. -/
theorem commitReleaseSendsEveryHeldCell : Obligations.CommitReleaseSendsEveryHeldCell := by
  intro e c hs r
  obtain ⟨kheld, kqueue, kcounters, krenumber, kpresA, kpresB, kskew, kcls⟩ := c.commitStart_keeps
  have hr : r = _ := Ctx.commitRelease_eq e c
  rw [kheld] at hr
  cases hh : c.held with
  | nil =>
    rw [hh] at hr
    have hfree : r.1 = { c.commitStart with gapDeadline := none, seedingDeadline := none } := by rw [hr]; rfl
    have hlost : r.2 = false := by rw [hr]; simp [Ctx.releaseAll, kcounters]
    rw [hfree, hlost]
    refine ⟨kheld.trans hh, rfl, rfl, by simp [kqueue], by simp [kcounters], by simp [krenumber], kpresA, kpresB, kskew,
      kcls, Ctx.commitStart_empty_nes hh, ?_⟩
    simp [gapsBelow, kcounters]
  | cons h rest =>
    rw [hh, Ctx.releaseAll_cons] at hr
    have hend : (match (h :: rest).getLast? with | some x => x.buffer.cell.seq + 1 | none => c.commitStart.nes)
        = (match (h :: rest).getLast? with | some x => x.buffer.cell.seq + 1 | none => c.nes) := by
      rw [List.getLast?_cons]
    rw [hr]
    refine ⟨rfl, rfl, rfl, ?_, ?_, ?_, kpresA, kpresB, kskew, kcls, hend, ?_⟩
    · show (c.commitStart.queue ++ sentAs e c.commitStart.renumber (h :: rest)).map _ = _
      rw [List.map_append, sentAs_map, kqueue]
    · show c.commitStart.counters.emitted + _ = _
      rw [kcounters]
    · show (if e.renumber then c.commitStart.renumber + _ else c.commitStart.renumber) = _
      rw [krenumber]
    · intro start
      have hstart : c.commitStart.nes = start := by
        obtain hs | hs := hs
        · rw [Ctx.commitStart_nes hs hh]
          simp only [start, hs]
        · rw [Ctx.commitStart_running hs]
          simp only [start, hs]
      refine ⟨?_, fun hlen => ?_⟩
      · show c.commitStart.counters.lost + BitVec.ofNat 32 (gapsBelow c.commitStart.nes (h :: rest)) = _
        rw [kcounters, hstart]
      · show (c.commitStart.counters.lost + BitVec.ofNat 32 (gapsBelow c.commitStart.nes (h :: rest)) != c.counters.lost) = true ↔ _
        have hle := gapsBelow_le c.commitStart.nes (h :: rest)
        rw [kcounters, ofNat_ne_zero_iff (by omega), hstart]

end Sys2Proof.Machine
end

section
/-! PROOFS. The steps whose cause is absent (assumption 7): each row's test fails. -/

namespace Sys2Proof.Machine

open Sys2Proof

/-! ## Passing ticks -/

theorem State.advance_ctx (d : Time) (s : State) (i : ContextId) : (s.advance d).ctx i = s.ctx i := by
  cases i with
  | flow n => exact State.flow_of_flows (by simp) n
  | m => show (s.advance d).m = s.m; simp

theorem State.advance_params (d : Time) (s : State) (i : ContextId) : (s.advance d).params i = s.params i := by
  have h : (s.advance d).tables = s.tables := by simp
  cases i with
  | flow n => exact congrArg (fun t : Tables => Params.ofEntry (t.active.entry n)) h
  | m => exact congrArg (fun t : Tables => Params.ofSettings t.settings) h

theorem Ctx.seedingDue_eq_false {p : Params} {now : Time} {c : Ctx}
    (h : c.state ≠ .seeding ∨ ∀ stamp, c.seedingStamp = some stamp → (now - stamp).toNat < c.applicableHold p) :
    c.seedingDue p now = false := by
  unfold Ctx.seedingDue
  split
  · next stamp hs hst => exact decide_eq_false (Nat.not_le.mpr (h.resolve_left (by simp [hs]) stamp hst))
  · rfl

theorem Ctx.gapDue_eq_false {p : Params} {now : Time} {c : Ctx}
    (h : c.state ≠ .running ∨ ∀ r ∈ c.held.head?, (now - r.buffer.stamp).toNat < c.applicableHold p) :
    c.gapDue p now = false := by
  unfold Ctx.gapDue
  split
  · next r rest hs hh => exact decide_eq_false (Nat.not_le.mpr (h.resolve_left (by simp [hs]) r (by simp [hh])))
  · rfl

theorem Presence.expired_eq_false {timeout : Nat} {now : Time} {r : Presence}
    (h : r.present = false ∨ ∀ stamp, r.last = some stamp → (now - stamp).toNat < timeout) :
    r.expired timeout now = false := by
  unfold Presence.expired
  split
  · next stamp hl =>
    obtain h | h := h
    · rw [h]
      rfl
    · have hw : ¬ timeout ≤ ticksSince now stamp := Nat.not_le.mpr (h stamp hl)
      rw [decide_eq_false hw, Bool.and_false]
  · rfl

theorem State.boundaryDue_eq_false {s : State}
    (h : s.sched.slotUsed = false ∨ s.sched.position + 1 < s.tables.active.calendar.length) : s.boundaryDue = false := by
  unfold State.boundaryDue
  obtain h | h := h
  · rw [h]
    rfl
  · rw [decide_eq_false (Nat.not_le.mpr h), Bool.and_false]

theorem State.notifyReady_eq_false {s : State} (h : s.phase ≠ .active ∨ s.agent.notifyPending = false ∨
    s.agent.commands ≠ [] ∨ 8 ≤ s.agent.replies.length ∨ s.agent.restartWaiting = true) : s.notifyReady = false := by
  unfold State.notifyReady Agent.placeFree
  obtain h | h | h | h | h := h
  · simp [h]
  · simp [h]
  · simp [h]
  · have hl : ¬ s.agent.replies.length < Config.replyPlaces := Nat.not_lt.mpr h
    simp [hl]
  · simp [h]

/-- Settles O31: in each row the test that stands for its cause fails. -/
theorem stepsWithoutTheirCauseOnlyPassTime : Obligations.StepsWithoutTheirCauseOnlyPassTime := by
  intro s p bytes payload check header i ok addr d s1
  have hphase : s1.phase = s.phase := by simp [s1]
  have hrx : s1.rx p = s.rx p := State.advance_rx d s p
  have hctx : s1.ctx i = s.ctx i := State.advance_ctx d s i
  have hparams : s1.params i = s.params i := State.advance_params d s i
  have htables : s1.tables = s.tables := by simp [s1]
  have hsched : s1.sched = s.sched := by simp [s1]
  have hstore : s1.store = s.store := by simp [s1]
  refine ⟨fun h => ?_, fun h => ?_, fun h => ?_, fun h => ?_, fun h => ?_, fun h => ?_, fun h => ?_, fun h => ?_, fun h => ?_,
    fun h => ?_, fun h => ?_⟩
  · exact congrArg Host.Outcome.next (if_neg (by rw [hphase]; exact h))
  · exact congrArg Host.Outcome.next (if_pos h)
  · show execHuntCandidatePasses p bytes d s = _
    unfold execHuntCandidatePasses
    obtain h | rfl := h
    · exact if_neg (by rw [State.advance_rx]; exact h)
    · dsimp only [huntBytes]
      rw [State.setRx_self, ite_self]
  · show execHeaderAtBoundary p header d s = _
    unfold execHeaderAtBoundary
    dsimp only
    rw [State.advance_rx]
    obtain h | h := h <;> rw [h]
  · show execCellLastByte p payload check d s = _
    unfold execCellLastByte
    dsimp only
    rw [State.advance_rx, h]
  · exact congrArg Host.Outcome.next (if_neg (Bool.eq_false_iff.mp (Ctx.seedingDue_eq_false (by rw [hctx, hparams]; exact h))))
  · exact congrArg Host.Outcome.next (if_neg (Bool.eq_false_iff.mp (Ctx.gapDue_eq_false (by rw [hctx, hparams]; exact h))))
  · exact congrArg Host.Outcome.next (if_neg (Bool.eq_false_iff.mp (Presence.expired_eq_false
      (by rw [hctx, htables]; exact h))))
  · refine congrArg Host.Outcome.next (if_neg ?_)
    rw [hphase]
    rintro ⟨hp, hb⟩
    have hn : s1.boundaryDue = false := State.boundaryDue_eq_false (by rw [hsched, htables]; exact h.resolve_left (fun e => e hp))
    exact absurd (hn.symm.trans hb) (by decide)
  · exact congrArg Host.Outcome.next (if_neg (Bool.eq_false_iff.mp (State.notifyReady_eq_false h)))
  · show execSaveWriteEnd ok d s = _
    unfold execSaveWriteEnd
    dsimp only
    rw [show (s.advance d).store = s.store from hstore, h]

end Sys2Proof.Machine
end

section
/-! PROOFS. The cell on the line (section 12.1, R202) and the cell the Out transmitter forms (R92, R93, R106 to R108). -/

namespace Sys2Proof.Machine

open Sys2Proof

/-! ## Numbers as bytes -/

theorem beBytes_length (n v : Nat) : (beBytes n v).length = n := by
  induction n with
  | zero => rfl
  | succ n ih => rw [beBytes, List.length_cons, ih]

/-- The last of a number's bytes is its low one. -/
theorem beBytes_snoc (v : Nat) : ∀ n : Nat, beBytes (n + 1) v = beBytes n (v >>> 8) ++ [BitVec.ofNat 8 v]
  | 0 => rfl
  | n + 1 => by
    have h : v >>> (8 * (n + 1)) = v >>> 8 >>> (8 * n) := by rw [← Nat.shiftRight_add, Nat.mul_succ, Nat.add_comm]
    rw [beBytes, beBytes_snoc v n, h]
    rfl

theorem beNat_snoc (bytes : List Byte) (b : Byte) : beNat (bytes ++ [b]) = beNat bytes * 256 + b.toNat := by
  simp [beNat]

/-- Bytes spell the number they were taken from (section 12.2). -/
theorem beNat_beBytes : ∀ (n v : Nat), v < 256 ^ n → beNat (beBytes n v) = v
  | 0, v, h => by
    have : v = 0 := Nat.lt_one_iff.mp h
    rw [this]; rfl
  | n + 1, v, h => by
    have hlt : v >>> 8 < 256 ^ n := by
      rw [Nat.shiftRight_eq_div_pow]
      exact Nat.div_lt_of_lt_mul (by rw [Nat.pow_succ, Nat.mul_comm] at h; exact h)
    rw [beBytes_snoc, beNat_snoc, beNat_beBytes n _ hlt, BitVec.toNat_ofNat, Nat.shiftRight_eq_div_pow]
    omega

/-! ## The header on the line -/

theorem append_toNat {v w : Nat} (x : BitVec w) (y : BitVec v) : (x ++ y).toNat = x.toNat * 2 ^ v + y.toNat := by
  rw [BitVec.toNat_append, ← Nat.shiftLeft_add_eq_or_of_lt y.isLt, Nat.shiftLeft_eq]

/-- The check is the low byte of the six, the other five stand above it (section 12.1). -/
theorem append_byte_toNat {w : Nat} (x : BitVec w) (b : Byte) : (x ++ b).toNat = x.toNat * 256 + b.toNat := append_toNat x b

theorem append_byte_shift {w : Nat} (x : BitVec w) (b : Byte) : (x ++ b).toNat >>> 8 = x.toNat := by
  have := b.isLt
  rw [append_byte_toNat, Nat.shiftRight_eq_div_pow]
  omega

theorem append_byte_low {w : Nat} (x : BitVec w) (b : Byte) : BitVec.ofNat 8 (x ++ b).toNat = b := by
  apply BitVec.eq_of_toNat_eq
  have := b.isLt
  rw [BitVec.toNat_ofNat, append_byte_toNat]
  omega

theorem Cell.wireHeader_bytes (c : Cell) : wireBytes c.wireHeader = headerBytes c.kind c.label c.seq ++ [c.headerCheck] := by
  unfold wireBytes Cell.wireHeader headerBytes
  rw [beBytes_snoc, append_byte_shift, append_byte_low]

theorem kindOf_code (k : Kind) : kindOf k.code = some k := by cases k <;> rfl

/-- The header as a number: each field above the next (section 12.1). -/
theorem Cell.wireHeader_toNat (c : Cell) : c.wireHeader.toNat
    = ((c.kind.code.toNat * 4096 + c.label.toNat) * 65536 + c.seq.toNat) * 256 + c.headerCheck.toNat := by
  unfold Cell.wireHeader
  rw [append_byte_toNat, append_toNat, append_toNat]
  rfl

/-- A field of the header is what stands at its bits. -/
theorem Cell.wireHeader_field (c : Cell) {start len : Nat} {x : BitVec len}
    (h : (((c.kind.code.toNat * 4096 + c.label.toNat) * 65536 + c.seq.toNat) * 256 + c.headerCheck.toNat) / 2 ^ start % 2 ^ len
      = x.toNat) : c.wireHeader.extractLsb' start len = x := by
  apply BitVec.eq_of_toNat_eq
  rw [BitVec.extractLsb'_toNat, Cell.wireHeader_toNat, Nat.shiftRight_eq_div_pow, h]

theorem Cell.wireKind_wireHeader (c : Cell) : wireKind c.wireHeader = some c.kind := by
  have h1 := c.kind.code.isLt
  have h2 := c.label.isLt
  have h3 := c.seq.isLt
  have h4 := c.headerCheck.isLt
  unfold wireKind
  rw [Cell.wireHeader_field c (x := c.kind.code) (by omega), kindOf_code]

theorem Cell.wireLabel_wireHeader (c : Cell) : wireLabel c.wireHeader = c.label := by
  have h2 := c.label.isLt
  have h3 := c.seq.isLt
  have h4 := c.headerCheck.isLt
  exact Cell.wireHeader_field c (by omega)

theorem Cell.wireSeq_wireHeader (c : Cell) : wireSeq c.wireHeader = c.seq := by
  have h3 := c.seq.isLt
  have h4 := c.headerCheck.isLt
  exact Cell.wireHeader_field c (by omega)

theorem Cell.wireCheck_wireHeader (c : Cell) : wireCheck c.wireHeader = c.headerCheck := by
  have h4 := c.headerCheck.isLt
  exact Cell.wireHeader_field c (by omega)

/-- A header with the check a transmitter computes passes (R93, R202). -/
theorem headerPasses_formCell (kind : Kind) (label : Label) (seq : Seq) (payload : List Byte) :
    headerPasses (formCell kind label seq payload).wireHeader = true := by
  unfold headerPasses
  rw [Cell.wireCheck_wireHeader, beq_iff_eq]
  unfold Cell.wireHeader
  rw [append_byte_shift]
  rfl

theorem payloadPasses_formCell (kind : Kind) (label : Label) (seq : Seq) (payload : List Byte) :
    payloadPasses payload (formCell kind label seq payload).payloadCheck = true := beq_self_eq_true _

/-- The 64 bytes of a cell, part by part (section 12.1). -/
theorem Cell.wire_parts {c : Cell} (h : c.payload.length = 54) :
    c.wire.take 6 = wireBytes c.wireHeader ∧ (c.wire.drop 6).take 54 = c.payload ∧
      c.wire.drop 60 = checkBytes c.payloadCheck := by
  have hw : c.wire = wireBytes c.wireHeader ++ (c.payload ++ checkBytes c.payloadCheck) := by
    unfold Cell.wire
    rw [Cell.wireHeader_bytes, List.append_assoc]
  have h6 : (wireBytes c.wireHeader).length = 6 := beBytes_length _ _
  refine ⟨?_, ?_, ?_⟩
  · rw [hw, List.take_left' h6]
  · rw [hw, List.drop_left' h6, List.take_left' h]
  · rw [hw, ← List.append_assoc, List.drop_left' (by rw [List.length_append, h6, h])]

/-! ## Restamping -/

theorem restamps_iff (e : Entry) (b : Buffer) :
    restamps e b = true ↔ b.cell.kind = .clock ∧ e.valid = true ∧ e.restamp = true := by
  simp [restamps, and_assoc]

/-- The correction field read back where it was put (R107, section 12.2). -/
theorem correctionOf_putCorrection {v : Int} {payload : List Byte} (hp : payload.length = 54) (hl : -2147483648 ≤ v)
    (hu : v ≤ 2147483647) : correctionOf (putCorrection v payload) = v := by
  have h6 : (payload.take 6).length = 6 := List.length_take_of_le (by omega)
  have hfield : (((payload.take 6 ++ beBytes 4 (BitVec.ofInt 32 v).toNat ++ payload.drop 10).drop 6).take 4)
      = beBytes 4 (BitVec.ofInt 32 v).toNat := by
    rw [List.append_assoc, List.drop_left' h6, List.take_left' (beBytes_length _ _)]
  unfold correctionOf putCorrection
  rw [hfield, beNat_beBytes 4 _ (BitVec.ofInt 32 v).isLt, BitVec.ofNat_toNat, BitVec.setWidth_eq, BitVec.toInt_ofInt]
  exact Int.bmod_eq_of_le (by norm_num; exact hl) (by norm_num; omega)

theorem putCorrection_rest {v : Int} {payload : List Byte} (hp : payload.length = 54) :
    (putCorrection v payload).take 6 = payload.take 6 ∧ (putCorrection v payload).drop 10 = payload.drop 10 ∧
      (putCorrection v payload).length = 54 := by
  have h6 : (payload.take 6).length = 6 := List.length_take_of_le (by omega)
  have h4 : (beBytes 4 (BitVec.ofInt 32 v).toNat).length = 4 := beBytes_length _ _
  unfold putCorrection
  refine ⟨?_, ?_, ?_⟩
  · rw [List.append_assoc, List.take_left' h6]
  · rw [List.drop_left' (by rw [List.length_append, h6, h4])]
  · rw [List.length_append, List.length_append, h6, h4, List.length_drop, hp]

/-- The sum of a correction and a residence is no less than a correction can be (R106). -/
theorem restampSum_ge (now : Time) (b : Buffer) : -2147483648 ≤ restampSum now b := by
  have h : -(2 : Int) ^ 31 ≤ correctionOf b.cell.payload := BitVec.le_toInt _
  unfold restampSum
  have h0 : (0 : Int) ≤ (ticksSince now b.stamp : Int) := Int.natCast_nonneg _
  norm_num at h
  omega

/-- Settles O26. -/
theorem outCellIsRestampedAndChecked : Obligations.OutCellIsRestampedAndChecked := by
  refine ⟨fun c hp => ?_, fun e now b hp => ?_⟩
  · obtain ⟨h6, h54, h60⟩ := Cell.wire_parts hp
    exact ⟨Cell.wire_length hp, h6, h54, h60⟩
  · intro c sum
    have hc : c = formCell b.cell.kind b.cell.label b.cell.seq (outPayload e now b) := rfl
    have hsum : sum = restampSum now b := rfl
    have hlen : (outPayload e now b).length = 54 := by
      unfold outPayload
      split
      · exact (putCorrection_rest hp).2.2
      · exact hp
    refine ⟨rfl, rfl, rfl, headerPasses_formCell _ _ _ _, payloadPasses_formCell _ _ _ _, Cell.wireKind_wireHeader c,
      Cell.wireLabel_wireHeader c, Cell.wireSeq_wireHeader c, hlen, fun hr => ?_, fun hr => ?_⟩
    · have hre := (restamps_iff e b).mpr hr
      have hout : c.payload = putCorrection (min sum 2147483647) b.cell.payload := if_pos hre
      have hge := restampSum_ge now b
      obtain ⟨hbefore, hbehind, -⟩ := putCorrection_rest (v := min sum 2147483647) hp
      rw [hout]
      refine ⟨correctionOf_putCorrection hp ?_ (Int.min_le_right _ _), hbefore, hbehind, ?_⟩
      · rw [hsum]; omega
      · unfold saturates
        rw [hre, Bool.true_and, decide_eq_true_iff]
        exact Iff.rfl
    · have hre : restamps e b = false := Bool.eq_false_iff.mpr (mt (restamps_iff e b).mp hr)
      refine ⟨if_neg (by rw [hre]; decide), ?_⟩
      unfold saturates
      rw [hre, Bool.false_and]

end Sys2Proof.Machine
end

section
/-! PROOFS. The start of an Out cell time (R74, R81, R85, R87 to R89, R97) and the take of the RESTART FULL reply (R199). -/

namespace Sys2Proof.Machine

open Sys2Proof

/-! ## The take of a reply -/

/-- The oldest filled place is behind the reserved ones ahead of it, which stay (R128). -/
theorem takeFilled_oldest {r : Reply} {behind : List Place} : ∀ {ahead : List Place},
    (∀ p ∈ ahead, p.reservation.isSome = true) → takeFilled (ahead ++ .filled r :: behind) = some (r, ahead ++ behind)
  | [], _ => rfl
  | .filled q :: ahead, h => absurd (h _ List.mem_cons_self) (by simp [Place.reservation])
  | .reserved tag code :: ahead, h => by
    rw [List.cons_append, takeFilled, takeFilled_oldest fun p hp => h p (List.mem_cons_of_mem _ hp)]
    rfl

/-- Without a filled place there is nothing to take. -/
theorem takeFilled_none : ∀ {places : List Place}, (∀ p ∈ places, p.reservation.isSome = true) → takeFilled places = none
  | [], _ => rfl
  | .filled q :: places, h => absurd (h _ List.mem_cons_self) (by simp [Place.reservation])
  | .reserved tag code :: places, h => by
    rw [takeFilled, takeFilled_none fun p hp => h p (List.mem_cons_of_mem _ hp)]

theorem exec_returnCellTime_active {s : State} (h : s.phase = .active) (addr : BitVec 5) (d : Time) :
    exec (.returnCellTime addr d) s
      = .next (State.returnTake addr { s with timeBase := s.timeBase + d, addrPins := addr }) := by
  show execReturnCellTime addr d s = _
  unfold execReturnCellTime
  rw [State.advance_active h]
  dsimp only
  rw [h]

theorem Store.abandon_idle {store : Store} (h : store.state = .idle) : store.abandon = store := by
  unfold Store.abandon
  rw [h]

theorem Receiver.down_released (signal : Bool) : (Receiver.down signal).released
    = { State.reset.rxA with signal := signal, state := if signal then .hunt else .down } := by
  cases signal <;> rfl

/-- Settles O28. -/
theorem restartFullTakesEffectWithItsReply : Obligations.RestartFullTakesEffectWithItsReply := by
  intro s addr d ahead behind r hp hr ha hf hs
  rw [exec_returnCellTime_active hp]
  have htake : takeFilled s.agent.replies = some (r, ahead ++ behind) := by rw [hr]; exact takeFilled_oldest ha
  unfold State.returnTake
  dsimp only
  rw [htake]
  dsimp only
  rw [if_pos hf]
  unfold State.releaseReset State.fullReset State.sendReply
  dsimp only
  rw [Store.abandon_idle hs, Receiver.down_released, Receiver.down_released]
  rfl

/-! ## The start of an Out cell time -/

/-- The buffer of the cell sent returns to the free list (R74). -/
theorem State.freeSent_eq (s : State) : s.freeSent = { s with
    pool := { s.pool with free := s.pool.free + s.out.buffer.toList.length }
    out := { s.out with buffer := none }
    alarms := s.freeSent.alarms } := by
  cases hb : s.out.buffer with
  | none =>
    have hf : s.freeSent = s := by unfold State.freeSent; rw [hb]
    have ho : s.out = { s.out with buffer := none } := by rw [← hb]
    rw [hf, ← ho]
    rfl
  | some b =>
    have hf : s.freeSent = State.freeBuffers 1 { s with out := { s.out with buffer := none } } := by
      unfold State.freeSent; rw [hb]
    rw [hf]
    unfold State.freeBuffers
    rw [if_neg (by decide), State.report_false]
    rfl

/-- The position a cell time uses: one further when a cell time has used it, wrapping at the end of the Calendar (R81). -/
def State.nextPosition (s : State) : Nat :=
  if s.sched.slotUsed = true then
    (if s.sched.position + 1 < s.tables.active.calendar.length then s.sched.position + 1 else 0)
  else s.sched.position

/-- The state whose slot a cell time reads: at its position, the cell time begun there. -/
def State.atSlot (s : State) : State :=
  { s with sched := { s.sched with position := s.nextPosition, slotUsed := true } }

/-- Without a commit to complete, the advance changes the position alone (R81). -/
theorem State.advancePosition_atSlot {s : State}
    (h : s.sched.slotUsed = true → s.sched.position + 1 < s.tables.active.calendar.length ∨ s.tables.commit = .none) :
    ({ s.advancePosition with sched := { s.advancePosition.sched with slotUsed := true } } : State) = s.atSlot := by
  unfold State.atSlot State.nextPosition
  obtain ⟨hb, e⟩ | ⟨hb, hu, e⟩ | ⟨hu, e⟩ := State.advancePosition_cases s
  · obtain ⟨hu, hlast⟩ : s.sched.slotUsed = true ∧ s.tables.active.calendar.length ≤ s.sched.position + 1 := by
      simpa [State.boundaryDue] using hb
    have hc : s.tables.commit = .none := (h hu).resolve_left (Nat.not_lt.mpr hlast)
    obtain ⟨-, er⟩ | ⟨tag, ht, -⟩ := State.roundBoundary_cases s
    · rw [e, er, if_pos hu, if_neg (Nat.not_lt.mpr hlast)]
      rfl
    · rw [hc] at ht
      cases ht
  · have hlt : s.sched.position + 1 < s.tables.active.calendar.length := by
      have := hb
      simp only [State.boundaryDue, hu, Bool.true_and, decide_eq_false_iff_not] at this
      exact Nat.lt_of_not_le this
    rw [e, if_pos hu, if_pos hlt]
    rfl
  · rw [e, hu, if_neg (by decide)]

theorem State.selectClass_none {s : State} (h : s.tables.active.calendar.slot s.sched.position = .idle ∨
    ∃ k, s.tables.active.calendar.slot s.sched.position = .cls k ∧ s.ring k = [] ∧
      (s.tables.active.calendar.lend = false ∨ ∀ j : Fin 8, s.ring j = [])) : s.selectClass = none := by
  unfold State.selectClass
  obtain h | ⟨k, hk, hr, h⟩ := h
  · rw [h]
  · rw [hk]
    dsimp only
    rw [hr]
    obtain h | h := h
    · rw [h]
      rfl
    · have hnone : (List.finRange 8).find? (fun j => !(s.ring j).isEmpty) = none :=
        List.find?_eq_none.mpr fun j _ => by simp [h j]
      rw [hnone]
      simp

/-- The slot's own class, or with LEND the lowest that waits (R87, R88). -/
theorem State.selectClass_some {s : State} {k j : Fin 8} (hk : s.tables.active.calendar.slot s.sched.position = .cls k)
    (hj : s.ring j ≠ [])
    (h : j = k ∨ (s.ring k = [] ∧ s.tables.active.calendar.lend = true ∧ ∀ i : Fin 8, i < j → s.ring i = [])) :
    s.selectClass = some j := by
  unfold State.selectClass
  rw [hk]
  dsimp only
  obtain rfl | ⟨hr, hl, hlow⟩ := h
  · exact if_neg (by simpa using hj)
  · rw [hr, hl]
    refine (if_pos rfl).trans ((if_pos rfl).trans ?_)
    obtain ⟨before, after, hsplit, hbefore⟩ := finRange_split j
    rw [List.find?_eq_some_iff_append]
    exact ⟨by simpa using hj, before, after, hsplit, fun i hi => by simp [hlow i (hbefore i hi)]⟩

theorem State.useSlot_idle {s u : State} (hu : ({ s with sched := { s.sched with slotUsed := true } } : State) = u)
    (h : u.selectClass = none) : s.useSlot = u.sendIdle := by
  unfold State.useSlot
  dsimp only
  rw [hu, h]

theorem State.useSlot_serves {s u : State} {j : Fin 8} {n : Index} {others : List Index} {b : Buffer} {rest : List Buffer}
    (hu : ({ s with sched := { s.sched with slotUsed := true } } : State) = u) (h : u.selectClass = some j)
    (hr : u.ring j = n :: others) (hq : (u.flow n).queue = b :: rest) : s.useSlot = u.served j n others b rest := by
  unfold State.useSlot
  dsimp only
  rw [hu, h]
  dsimp only
  unfold State.serveClass
  rw [hr]
  dsimp only
  rw [hq]
  rfl

theorem Ctx.taken_eq (rest : List Buffer) (saturated : Bool) (c : Ctx) : c.taken rest saturated = { c with
    queue := rest
    state := if rest = [] ∧ c.state = .draining then .none else c.state
    counters := if saturated = true then { c.counters with correctionSaturated := c.counters.correctionSaturated + 1 }
      else c.counters } := by
  unfold Ctx.taken
  cases rest <;> simp

theorem exec_outCellTimeStart_active {s : State} (h : s.phase = .active) (d : Time) :
    exec (.outCellTimeStart d) s = .next (({ s with timeBase := s.timeBase + d } : State).freeSent.advancePosition).useSlot := by
  show execOutCellTimeStart d s = _
  unfold execOutCellTimeStart
  rw [State.advance_active h]
  dsimp only
  rw [h]

/-- Settles O25. -/
theorem outCellTimeServesTheCalendar : Obligations.OutCellTimeServesTheCalendar := by
  intro s d
  refine ⟨fun hp => ?_, fun hp => ?_, fun hp hl h8 hc => ?_⟩
  · have hadv : s.advance d = s := by
      rw [State.advance_eq, if_neg (by obtain hp | hp := hp <;> simp [hp])]
    show execOutCellTimeStart d s = _
    unfold execOutCellTimeStart
    rw [hadv]
    dsimp only
    obtain hp | hp := hp <;> rw [hp]
  · show execOutCellTimeStart d s = _
    unfold execOutCellTimeStart
    rw [State.advance_counting (.inl hp)]
    dsimp only
    rw [hp]
    rfl
  · intro position slot free sched now
    have hfreed := State.freeSent_eq ({ s with timeBase := s.timeBase + d } : State)
    generalize hu : ({ s with timeBase := s.timeBase + d } : State).freeSent = u at hfreed
    have hslot := State.advancePosition_atSlot (s := u) (by rw [hfreed]; exact hc)
    have hat : u.atSlot = { s with timeBase := now, sched := sched, pool := { s.pool with free := free }
                                   out := { s.out with buffer := none }, alarms := u.alarms } := by
      rw [hfreed]
      rfl
    have hexec : exec (.outCellTimeStart d) s = .next (u.advancePosition).useSlot := by
      rw [exec_outCellTimeStart_active hp, hu]
    refine ⟨fun hidle => ?_, fun k j n others b rest hk hr hq hj => ?_⟩
    · rw [State.useSlot_idle hslot (State.selectClass_none (by rw [hat]; exact hidle)), hat] at hexec
      exact ⟨_, hexec, rfl⟩
    · rw [State.useSlot_serves (j := j) (n := n) (others := others) (b := b) (rest := rest) hslot
        (State.selectClass_some (k := k) (by rw [hat]; exact hk) (by rw [hat]; show s.ring j ≠ []; rw [hr]; simp)
          (by rw [hat]; exact hj)) (by rw [hat]; exact hr) (by rw [hat]; exact hq), hat] at hexec
      refine ⟨_, hexec, rfl, ?_, fun i hi => ?_, ?_, fun i hi => ?_, rfl⟩
      · refine (State.flow_setFlow_self (s := s) hl n _).trans ?_
        rw [Ctx.taken_eq]
        rfl
      · exact State.flow_setFlow_ne hi _ _
      · refine (State.ring_setRing_self (s := s) h8 j _).trans ?_
        cases rest <;> rfl
      · exact State.ring_setRing_ne hi _ s

end Sys2Proof.Machine
end

section
/-! PROOFS. O24 and O22: what an outstanding commit leaves of the contexts at the round boundary. -/

namespace Sys2Proof.Machine

open Sys2Proof

/-! ## The round boundary with a commit outstanding -/

theorem exec_roundBoundary_commit {s : State} {d : Time} {tag : Byte} (hp : s.phase = .active)
    (hu : s.sched.slotUsed = true) (hl : s.tables.active.calendar.length ≤ s.sched.position + 1)
    (hc : s.tables.commit = .outstanding tag) :
    exec (.roundBoundary d) s
      = .next ((s.advance d).rewound.commitContexts.fillReserved commitCode .ok []) := by
  have ha := State.advance_active hp d
  have hdue : (s.advance d).phase = .active ∧ (s.advance d).boundaryDue = true := by
    rw [ha]
    exact ⟨hp, by simp only [State.boundaryDue, hu, Bool.true_and, decide_eq_true_eq]; exact hl⟩
  have hc' : (s.advance d).rewound.tables.commit = .outstanding tag := by rw [ha]; exact hc
  exact congrArg Host.Outcome.next ((if_pos hdue).trans (State.completeCommit_outstanding hc'))

theorem State.flow_fillReserved (code : Byte) (status : Status) (result : List Byte) (n : Index) (s : State) :
    (s.fillReserved code status result).flow n = s.flow n := rfl

/-- Each context is what the commit makes of it by its old and its new entry, at the instant of the boundary. -/
theorem State.flow_committed {s : State} {d : Time} (hp : s.phase = .active) (hl : s.flows.length = 128) (n : Index) :
    ((s.advance d).rewound.commitContexts.fillReserved commitCode .ok []).flow n
      = (s.flow n).committed (s.entry n) (s.tables.pendingBank.entry n) (s.timeBase + d) := by
  rw [State.advance_active hp d]
  generalize hu : State.rewound { s with timeBase := s.timeBase + d } = u
  have hflows : u.flows = s.flows := by rw [← hu]; rfl
  have htables : u.tables = s.tables := by rw [← hu]; rfl
  have hnow : u.timeBase = s.timeBase + d := by rw [← hu]; rfl
  have hentry : u.entry n = s.entry n := congrArg (fun t : Tables => t.active.entry n) htables
  rw [State.flow_fillReserved, State.flow_commitContexts (by rw [hflows]; exact hl) n, State.flow_of_flows hflows n,
    hentry, htables, hnow]

/-! ## What a commit makes of one context -/

theorem Ctx.committed_valid {old new : Entry} (ho : old.valid = false) (hn : new.valid = true) (now : Time) (c : Ctx) :
    c.committed old new now = c.newFlow new.cls := by
  simp only [Ctx.committed, ho, hn]

theorem Ctx.committed_invalid {old new : Entry} (ho : old.valid = false) (hn : new.valid = false) (now : Time) (c : Ctx) :
    c.committed old new now = c := by
  simp only [Ctx.committed, ho, hn]

theorem Ctx.committed_retires {old new : Entry} (ho : old.valid = true) (hn : new.valid = false) (now : Time) (c : Ctx) :
    c.committed old new now = (c.commitRelease old).1.retire := by
  simp only [Ctx.committed, ho, hn]

theorem Ctx.committed_relabels {old new : Entry} (ho : old.valid = true) (hn : new.valid = true)
    (hl : new.inLabel ≠ old.inLabel) (now : Time) (c : Ctx) :
    c.committed old new now = (c.commitRelease old).1.newFlow new.cls := by
  simp only [Ctx.committed, ho, hn, if_neg hl.symm]

theorem Ctx.committed_keeps {old new : Entry} (ho : old.valid = true) (hn : new.valid = true)
    (hl : old.inLabel = new.inLabel) (hne : old ≠ new) (now : Time) (c : Ctx) :
    c.committed old new now = (Ctx.settle new now (c.commitFields old new)).1 := by
  simp only [Ctx.committed, ho, hn, if_pos hl, if_neg hne]

theorem Ctx.committed_same (e : Entry) (now : Time) (c : Ctx) : c.committed e e now = c := by
  rcases hv : e.valid with _ | _
  · exact Ctx.committed_invalid hv hv now c
  · simp only [Ctx.committed, hv, if_true]

/-- Settles O24: the commit release, under the old entry, and then the retirement or the new flow. -/
theorem commitInvalidatesOrRelabels : Obligations.CommitInvalidatesOrRelabels := by
  intro s d tag n hp hu hcal hc hl hv new released
  have hx := exec_roundBoundary_commit (d := d) hp hu hcal hc
  have hf := State.flow_committed (d := d) hp hl n
  refine ⟨fun hn => ⟨_, hx, ?_⟩, fun hn hlabel => ⟨_, hx, hf.trans (Ctx.committed_relabels hv hn hlabel _ _)⟩⟩
  rw [hf, Ctx.committed_retires hv hn]
  simp only [Ctx.retire, List.isEmpty_iff]
  rfl

end Sys2Proof.Machine
end

section
/-! PROOFS. O22: the round boundary with and without a commit. -/

namespace Sys2Proof.Machine

open Sys2Proof

/-! ## One index among all -/

theorem State.forFlows_around (f : Index → State → State) (n : Index) (s : State) :
    ∃ before after : List Index, n ∉ before ∧ n ∉ after ∧
      s.forFlows f = after.foldl (fun t k => f k t) (f n (before.foldl (fun t k => f k t) s)) := by
  obtain ⟨before, after, hsplit, -⟩ := finRange_split n
  have hd : (before ++ n :: after).Nodup := hsplit ▸ List.nodup_finRange 128
  obtain ⟨-, hd', hdis⟩ := List.nodup_append.mp hd
  refine ⟨before, after, fun h => hdis n h n List.mem_cons_self rfl, (List.nodup_cons.mp hd').1, ?_⟩
  rw [State.forFlows, hsplit, List.foldl_append, List.foldl_cons]

/-- A commit's consequence where old and new entry are the same: none. -/
theorem State.commitIndex_same {oldBank : Bank} {k : Index} {s : State} (h : oldBank.entry k = s.entry k) :
    s.commitIndex oldBank k = s := by
  obtain ⟨-, -, e⟩ | ⟨ho, hn, -⟩ | ⟨ho, hn, -⟩ | ⟨-, -, -, e⟩ | ⟨-, -, hl, -⟩ := State.commitIndex_cases oldBank k s
  · exact e
  · rw [h, hn] at ho; cases ho
  · rw [h, hn] at ho; cases ho
  · rw [e, State.commitSameLabel_eq, if_pos h]
  · exact absurd (congrArg Entry.inLabel h) hl

theorem State.commitIndex_keptLabel {oldBank : Bank} {n : Index} {s : State} (ho : (oldBank.entry n).valid = true)
    (hn : (s.entry n).valid = true) (hl : (oldBank.entry n).inLabel = (s.entry n).inLabel)
    (hne : oldBank.entry n ≠ s.entry n) :
    s.commitIndex oldBank n = (s.commitFields (oldBank.entry n) (s.entry n) n).settleFlow n
      ((s.commitFields (oldBank.entry n) (s.entry n) n).flow n) := by
  unfold State.commitIndex
  simp only [ho, hn, if_pos hl, State.commitSameLabel_eq, if_neg hne]

/-- Before index `n` is reached its context and the tables stand. -/
theorem State.commitBefore_keeps {bank : Bank} {n : Index} : ∀ {before : List Index} {s : State}, n ∉ before →
    s.flows.length = 128 →
    let u := before.foldl (fun t k => State.commitIndex bank k t) s
    s.onlyMerge u ∧ u.flows.length = 128 ∧ u.flow n = s.flow n
  | [], s, _, hl => ⟨State.onlyMerge_refl s, hl, rfl⟩
  | k :: before, s, hn, hl => by
    obtain ⟨hk, hn⟩ := not_or.mp fun e => hn (List.mem_cons.mpr e)
    have hf := State.commitIndex_flows hl bank k
    obtain ⟨hm, hl', hflow⟩ := State.commitBefore_keeps (bank := bank) hn
      (show (s.commitIndex bank k).flows.length = 128 by rw [hf, List.length_set, hl])
    exact ⟨State.onlyMerge_trans (State.commitIndex_onlyMerge bank k s) hm, hl',
      hflow.trans ((State.flow_of_set hl hf).2 n hk)⟩

/-- What the commit leaves latched at one index stays latched. -/
theorem State.commitContexts_loss {s : State} {n : Index} (hl : s.flows.length = 128) (ho : (s.entry n).valid = true)
    (hn : (s.tables.pendingBank.entry n).valid = true)
    (hlabel : (s.entry n).inLabel = (s.tables.pendingBank.entry n).inLabel)
    (hne : s.entry n ≠ s.tables.pendingBank.entry n)
    (hloss : (Ctx.settle (s.tables.pendingBank.entry n) s.timeBase
      ((s.flow n).commitFields (s.entry n) (s.tables.pendingBank.entry n))).2 = true) :
    hasKind s.commitContexts.alarms.latched .loss = true := by
  obtain ⟨before, after, hb, -, e⟩ := State.forFlows_around (State.commitIndex s.tables.active) n s.commitTables
  have hu := State.commitBefore_keeps (bank := s.tables.active) hb (s := s.commitTables) hl
  generalize before.foldl (fun t k => State.commitIndex s.tables.active k t) s.commitTables = u at e hu
  obtain ⟨hm, hlen, hflow⟩ := hu
  obtain ⟨-, -, htime, -, -, -, -, -, htab, -⟩ := State.onlyMerge_keeps hm
  have hentry : u.entry n = s.tables.pendingBank.entry n := congrArg (fun t : Tables => t.active.entry n) htab
  have hold : s.tables.active.entry n = s.entry n := rfl
  have hi := State.commitIndex_keptLabel (oldBank := s.tables.active) (s := u) ho (hentry ▸ hn) (hentry ▸ hlabel)
    (hentry ▸ hne)
  rw [hentry, hold] at hi
  have hmf := State.commitFields_onlyMerge (s.entry n) (s.tables.pendingBank.entry n) n u
  have hf := (State.flow_of_set hlen (State.commitFields_flows hlen (s.entry n) (s.tables.pendingBank.entry n) n)).1
  generalize u.commitFields (s.entry n) (s.tables.pendingBank.entry n) n = v at hi hmf hf
  obtain ⟨-, -, vtime, -, -, -, -, -, vtab, -⟩ := State.onlyMerge_keeps hmf
  have ventry : v.entry n = s.tables.pendingBank.entry n :=
    (congrArg (fun t : Tables => t.active.entry n) vtab).trans hentry
  have hlatch : hasKind (v.settleFlow n (v.flow n)).alarms.latched .loss = true := by
    refine State.settleFlow_loss ?_
    rw [ventry, vtime, htime, hf, hflow]
    exact hloss
  have hafter : (u.commitIndex s.tables.active n).onlyMerge (s.commitTables.forFlows (State.commitIndex s.tables.active)) := by
    rw [e]
    exact List.foldlRecOn (motive := (u.commitIndex s.tables.active n).onlyMerge) after
      (fun t k => State.commitIndex s.tables.active k t) (State.onlyMerge_refl _)
      (fun t ht k _ => State.onlyMerge_trans ht (State.commitIndex_onlyMerge _ k t))
  exact (State.reportFlows_onlyMerge _).2.2 _ (hafter.2.2 _ (hi ▸ hlatch))

/-- Where only one index differs, its consequence is the whole commit. -/
theorem State.commitContexts_only {s : State} {n : Index}
    (h : ∀ i : Index, i ≠ n → s.entry i = s.tables.pendingBank.entry i) :
    s.commitContexts = (s.commitTables.commitIndex s.tables.active n).reportFlows := by
  have stay : ∀ (l : List Index) (t : State), n ∉ l → t.tables = s.commitTables.tables →
      l.foldl (fun t k => State.commitIndex s.tables.active k t) t = t := by
    intro l
    induction l with
    | nil => exact fun _ _ _ => rfl
    | cons k l ih =>
      intro t hn ht
      obtain ⟨hk, hn⟩ := not_or.mp fun e => hn (List.mem_cons.mpr e)
      have hentry : s.tables.active.entry k = t.entry k :=
        (h k (Ne.symm hk)).trans (congrArg (fun t : Tables => t.active.entry k) ht).symm
      rw [List.foldl_cons, State.commitIndex_same hentry]
      exact ih t hn ht
  obtain ⟨before, after, hb, ha, e⟩ := State.forFlows_around (State.commitIndex s.tables.active) n s.commitTables
  obtain ⟨-, -, -, -, -, -, -, -, htab, -⟩ :=
    State.onlyMerge_keeps (State.commitIndex_onlyMerge s.tables.active n s.commitTables)
  rw [State.commitContexts, e, stay before _ hb rfl, stay after _ ha htab]

end Sys2Proof.Machine
end

section
/-! PROOFS. O22: pool and rings where one index differs, and the round boundary as a whole. -/

namespace Sys2Proof.Machine

open Sys2Proof

/-! ## The pool and the rings of one index -/

theorem Ctx.beyond_length (window : Nat) (c : Ctx) :
    (c.beyond window).length
      = c.held.length - (c.held.filter (fun r => decide (seqDist c.nes r.buffer.cell.seq < window))).length := by
  have h := List.length_eq_length_filter_add (l := c.held) fun r => decide (seqDist c.nes r.buffer.cell.seq < window)
  have hb : c.beyond window
      = c.held.filter (fun r => !decide (seqDist c.nes r.buffer.cell.seq < window)) :=
    congrArg (fun p => List.filter p c.held) (funext fun r => by rw [← decide_not]; exact decide_eq_decide.mpr Nat.not_lt.symm)
  rw [hb]
  omega

theorem State.moveRing_pool (n : Index) (old new : Fin 8) (s : State) : (s.moveRing n old new).pool = s.pool := by
  unfold State.moveRing
  split
  · rfl
  · rfl

theorem State.ring_moveRing {s : State} (hr : s.sched.rings.length = 8) (n : Index) (old new k : Fin 8) :
    (s.moveRing n old new).ring k =
      if (s.flow n).queue = [] ∨ old = new then s.ring k
      else if k = new then s.ring k ++ [n]
      else if k = old then (s.ring k).filter (fun i => decide (i ≠ n)) else s.ring k := by
  unfold State.moveRing
  by_cases h : old = new ∨ (s.flow n).queue = []
  · rw [if_pos h, if_pos h.symm]
  · obtain ⟨hne, hq⟩ := not_or.mp h
    have hleft : (s.leaveRing old n).sched.rings.length = 8 := by simp [State.leaveRing, State.setRing, hr]
    rw [if_neg h, if_neg fun e => h e.symm, State.joinRing]
    by_cases hk : k = new
    · subst hk
      rw [State.ring_setRing_self hleft, if_pos rfl, State.leaveRing, State.ring_setRing_ne (fun e => hne e.symm)]
    · rw [State.ring_setRing_ne hk, if_neg hk, State.leaveRing]
      by_cases ho : k = old
      · subst ho
        rw [State.ring_setRing_self hr, if_pos rfl]
        exact congrArg (fun p => (s.ring k).filter p) (funext fun i => by simp [bne, beq_eq_decide])
      · rw [State.ring_setRing_ne ho, if_neg ho]

/-- The buffers beyond a smaller window are free (R144). -/
theorem State.commitFields_pool (old new : Entry) (n : Index) (s : State) :
    (s.commitFields old new n).pool = { s.pool with free := s.pool.free +
      (if new.window.size < old.window.size then ((s.flow n).beyond new.window.size).length else 0) } := by
  have hw : (s.commitWindow old new n).pool = { s.pool with free := s.pool.free +
      (if new.window.size < old.window.size then ((s.flow n).beyond new.window.size).length else 0) } := by
    unfold State.commitWindow
    split
    · rw [State.freeBuffers_pool]
      rfl
    · rfl
  have hp : ((s.commitWindow old new n).commitPolicy old new n).pool = (s.commitWindow old new n).pool := by
    unfold State.commitPolicy
    split <;> rfl
  unfold State.commitFields State.commitClass
  split
  · exact hp.trans hw
  · exact (State.moveRing_pool n _ _ _).trans (hp.trans hw)

/-- The number of contexts, the schedule, and queue and class of context `n` stand. -/
def State.keepsQueueOf (n : Index) (s t : State) : Prop :=
  t.flows.length = 128 ∧ t.sched = s.sched ∧ (s.flow n).sameQueue (t.flow n)

theorem State.keepsQueueOf_setFlow {s : State} {n : Index} {c : Ctx} (hl : s.flows.length = 128)
    (hc : (s.flow n).sameQueue c) : State.keepsQueueOf n s (s.setFlow n c) :=
  ⟨by rw [State.setFlow_flows_length, hl], rfl, by rw [State.flow_setFlow_self hl]; exact hc⟩

theorem State.commitWindow_keepsQueueOf {s : State} (hl : s.flows.length = 128) (old new : Entry) (n : Index) :
    State.keepsQueueOf n s (s.commitWindow old new n) := by
  unfold State.commitWindow
  split
  · obtain ⟨-, -, hq⟩ := State.keepsQueueOf_setFlow (c := (s.flow n).shrinkWindow new.window.size) hl ⟨rfl, rfl⟩
    have hf := State.flow_of_flows (s := s.setFlow n ((s.flow n).shrinkWindow new.window.size))
      (t := (s.setFlow n ((s.flow n).shrinkWindow new.window.size)).freeBuffers ((s.flow n).beyond new.window.size).length)
      (by simp) n
    exact ⟨by simp [hl], by simp, hf ▸ hq⟩
  · exact ⟨hl, rfl, rfl, rfl⟩

theorem State.commitPolicy_keepsQueueOf {s : State} (hl : s.flows.length = 128) (old new : Entry) (n : Index) :
    State.keepsQueueOf n s (s.commitPolicy old new n) := by
  unfold State.commitPolicy
  split
  · exact ⟨hl, rfl, rfl, rfl⟩
  · exact State.keepsQueueOf_setFlow hl ⟨rfl, rfl⟩

theorem State.commitFields_rings_length {s : State} (hl : s.flows.length = 128) (old new : Entry) (n : Index) :
    (s.commitFields old new n).sched.rings.length = s.sched.rings.length := by
  obtain ⟨wl, ws, -⟩ := State.commitWindow_keepsQueueOf hl old new n
  obtain ⟨-, us, -⟩ := State.commitPolicy_keepsQueueOf wl old new n
  rw [← ws, ← us]
  unfold State.commitFields State.commitClass State.moveRing
  split
  · rfl
  · split <;> simp [State.leaveRing, State.joinRing]

/-- A new class takes the flow from its old ring to the tail of its new one (R86, R146). -/
theorem State.ring_commitFields {s : State} (hl : s.flows.length = 128) (hr : s.sched.rings.length = 8) {old new : Entry}
    {n : Index} (hc : (s.flow n).servingClass = old.cls) (k : Fin 8) :
    (s.commitFields old new n).ring k =
      if (s.flow n).queue = [] ∨ old.cls = new.cls then s.ring k
      else if k = new.cls then s.ring k ++ [n]
      else if k = old.cls then (s.ring k).filter (fun i => decide (i ≠ n)) else s.ring k := by
  obtain ⟨wl, ws, wq, wc⟩ := State.commitWindow_keepsQueueOf hl old new n
  obtain ⟨ul, us, uq, uc⟩ := State.commitPolicy_keepsQueueOf wl old new n
  unfold State.commitFields
  generalize (s.commitWindow old new n).commitPolicy old new n = u at ul us uq uc
  have hring : ∀ k, u.ring k = s.ring k := fun k => State.ring_of_sched (by rw [us, ws]) k
  unfold State.commitClass
  by_cases hcls : old.cls = new.cls
  · rw [if_pos hcls, if_pos (.inr hcls), hring]
  · have hv := State.flow_setFlow_self ul n { u.flow n with servingClass := new.cls }
    have hvr : (u.setFlow n { u.flow n with servingClass := new.cls }).sched.rings.length = 8 := by
      show u.sched.rings.length = 8
      rw [us, ws, hr]
    rw [if_neg hcls, State.ring_moveRing hvr, hv]
    show (if (u.flow n).queue = [] ∨ (u.flow n).servingClass = new.cls then u.ring k
      else if k = new.cls then u.ring k ++ [n]
      else if k = (u.flow n).servingClass then (u.ring k).filter (fun i => decide (i ≠ n)) else u.ring k) = _
    rw [uq, wq, uc, wc, hc, hring]

theorem Ctx.commitFields_queue (old new : Entry) (c : Ctx) :
    (c.commitFields old new).queue = c.queue ∧
      (c.servingClass = old.cls → (c.commitFields old new).servingClass = new.cls) := by
  have hq : ∀ c1 : Ctx, c1.sameQueue (if old.hold = new.hold ∧ old.loneHold = new.loneHold ∧ old.policy = new.policy
      then c1 else c1.takePolicy new.policy) := fun c1 => by split <;> exact ⟨rfl, rfl⟩
  have hw : c.sameQueue (if new.window.size < old.window.size then c.shrinkWindow new.window.size else c) := by
    split <;> exact ⟨rfl, rfl⟩
  obtain ⟨q, k⟩ := hq (if new.window.size < old.window.size then c.shrinkWindow new.window.size else c)
  unfold Ctx.commitFields
  dsimp only
  split
  · next h => exact ⟨q.trans hw.1, fun e => (k.trans hw.2).trans (e.trans h)⟩
  · exact ⟨q.trans hw.1, fun _ => rfl⟩

/-- Where only index `n` differs, in fields other than its in-label: the buffers beyond a smaller window are free, and the
flow moves to, or joins, the tail of its new ring (R84, R86, R144, R146). -/
theorem State.commitContexts_sole {s : State} {n : Index} {old new : Entry} (hl : s.flows.length = 128)
    (hr : s.sched.rings.length = 8) (heo : s.entry n = old) (hen : s.tables.pendingBank.entry n = new)
    (ho : old.valid = true) (hn : new.valid = true) (hlabel : old.inLabel = new.inLabel) (hne : old ≠ new)
    (hc : (s.flow n).servingClass = old.cls) (only : ∀ i : Index, i ≠ n → s.entry i = s.tables.pendingBank.entry i) :
    s.commitContexts.pool = { s.pool with free := s.pool.free +
      (if new.window.size < old.window.size then ((s.flow n).beyond new.window.size).length else 0) } ∧
    ∀ k : Fin 8, s.commitContexts.ring k =
      if (s.flow n).queue ≠ [] then
        if old.cls = new.cls then s.ring k
        else if k = new.cls then s.ring k ++ [n]
        else if k = old.cls then (s.ring k).filter (fun i => decide (i ≠ n)) else s.ring k
      else if k = new.cls ∧ (s.commitContexts.flow n).queue ≠ [] then s.ring k ++ [n] else s.ring k := by
  have hflow : s.commitContexts.flow n = (Ctx.settle new s.timeBase ((s.flow n).commitFields old new)).1 := by
    rw [State.flow_commitContexts hl, heo, hen, Ctx.committed_keeps ho hn hlabel hne]
  rw [hflow]
  have hold : s.tables.active.entry n = old := heo
  have hnew : s.commitTables.entry n = new := hen
  have hl' : s.commitTables.flows.length = 128 := hl
  have hkeep : s.commitTables.flow n = s.flow n ∧ s.commitTables.pool = s.pool ∧
      (∀ k, s.commitTables.ring k = s.ring k) ∧ s.commitTables.timeBase = s.timeBase ∧
      s.commitTables.sched.rings.length = 8 := ⟨rfl, rfl, fun _ => rfl, rfl, hr⟩
  rw [State.commitContexts_only only]
  have hindex := State.commitIndex_keptLabel (oldBank := s.tables.active) (s := s.commitTables) (n := n)
    (hold.symm ▸ ho) (hnew.symm ▸ hn) (by rw [hold, hnew]; exact hlabel) (by rw [hold, hnew]; exact hne)
  rw [hindex, hold, hnew]
  generalize s.commitTables = u at hnew hl' hkeep ⊢
  obtain ⟨uf, up, ur, ut, ul⟩ := hkeep
  have vp := State.commitFields_pool old new n u
  have vr := fun k => State.ring_commitFields (s := u) hl' ul (new := new) (uf ▸ hc) k
  have vf := (State.flow_of_set hl' (State.commitFields_flows hl' old new n)).1
  have vm := State.onlyMerge_keeps (State.commitFields_onlyMerge old new n u)
  have vlen := (State.commitFields_rings_length hl' old new n).trans ul
  generalize u.commitFields old new n = v at vp vr vf vm vlen ⊢
  obtain ⟨-, -, vt, -, -, -, -, -, vtab, -⟩ := vm
  have ventry : v.entry n = new := (congrArg (fun t : Tables => t.active.entry n) vtab).trans hnew
  refine ⟨by simp [vp, uf, up], fun k => ?_⟩
  have hring : (v.settleFlow n (v.flow n)).reportFlows.ring k
      = (v.putFlow n (Ctx.settle new s.timeBase ((s.flow n).commitFields old new)).1).ring k := by
    have ha := State.settleFlow_onlyAlarms n (v.flow n) v
    rw [ventry, vt, ut, vf, uf] at ha
    exact (State.ring_of_sched (s := v.settleFlow n (v.flow n)) (by simp) k).trans
      (State.ring_of_sched (by rw [vf, uf, ha.1]) k)
  obtain ⟨hq, hk⟩ := Ctx.commitFields_queue old new (s.flow n)
  rw [hring, State.ring_putFlow vlen, Ctx.settle_servingClass, hk hc, vf, uf, hq, vr, uf, ur]
  by_cases he : (s.flow n).queue = []
  · simp only [he, true_and, true_or, if_true, ne_eq, not_true_eq_false, if_false]
  · simp only [he, false_and, and_false, false_or, if_false, ne_eq, not_false_eq_true, if_true]

/-! ## The context of an index that keeps its in-label -/

/-- What a commit writes into a context before it settles (R144 to R146). -/
theorem Ctx.commitFields_eq (old new : Entry) (c : Ctx) :
    let same : Bool := decide (old.hold = new.hold ∧ old.loneHold = new.loneHold ∧ old.policy = new.policy)
    let kept := if new.window.size < old.window.size
      then c.held.filter (fun r => decide (seqDist c.nes r.buffer.cell.seq < new.window.size)) else c.held
    let aligned (excluding : Policy) (r : Presence) : Presence :=
      if same = false ∧ new.policy = excluding then { r with present := false, expiry := none } else r
    c.commitFields old new = { c with
      held := kept
      counters := { c.counters with
        flushed := c.counters.flushed + BitVec.ofNat 32 (c.held.length - kept.length) }
      presA := aligned .bOnly c.presA
      presB := aligned .aOnly c.presB
      servingClass := if old.cls = new.cls then c.servingClass else new.cls
      seedingDeadline := if same then c.seedingDeadline else none
      gapDeadline := if same then c.gapDeadline else none } := by
  intro same kept aligned
  have hw : (if new.window.size < old.window.size then c.shrinkWindow new.window.size else c)
      = { c with
        held := kept
        counters := { c.counters with
          flushed := c.counters.flushed + BitVec.ofNat 32 (c.held.length - kept.length) } } := by
    by_cases h : new.window.size < old.window.size
    · simp only [kept, if_pos h, Ctx.shrinkWindow, Ctx.beyond_length]
    · simp only [kept, if_neg h, Nat.sub_self, BitVec.add_zero]
  unfold Ctx.commitFields
  dsimp only
  rw [hw]
  by_cases hs : old.hold = new.hold ∧ old.loneHold = new.loneHold ∧ old.policy = new.policy
  · have hsame : same = true := decide_eq_true hs
    simp only [if_pos hs, aligned, hsame, Bool.true_eq_false, false_and, if_false, if_true]
    split <;> rfl
  · have hsame : same = false := decide_eq_false hs
    simp only [if_neg hs, aligned, hsame, true_and, Bool.false_eq_true, if_false, Ctx.takePolicy, Ctx.alignPresence]
    generalize new.policy = policy
    cases policy <;> split <;> rfl

/-! ## The boundary as a whole -/

theorem exec_roundBoundary_wrap {s : State} {d : Time} (hp : s.phase = .active)
    (hu : s.sched.slotUsed = true) (hl : s.tables.active.calendar.length ≤ s.sched.position + 1)
    (hc : s.tables.commit = .none) :
    exec (.roundBoundary d) s
      = .next { s.advance d with sched := { s.sched with position := 0, slotUsed := false } } := by
  have ha := State.advance_active hp d
  have hdue : (s.advance d).phase = .active ∧ (s.advance d).boundaryDue = true := by
    rw [ha]
    exact ⟨hp, by simp only [State.boundaryDue, hu, Bool.true_and, decide_eq_true_eq]; exact hl⟩
  have hc' : (s.advance d).rewound.tables.commit = .none := by rw [ha]; exact hc
  have hsched : (s.advance d).sched = s.sched := by simp
  refine congrArg Host.Outcome.next ((if_pos hdue).trans ((State.completeCommit_none hc').trans ?_))
  rw [State.rewound, hsched]

/-- What a commit leaves of the state: tables and the reserved place change, and beside the contexts only pool, rings and
alarms (R138, R156). -/
theorem State.commitContexts_fillReserved {u v : State} {tag : Byte} {before behind : List Place}
    (hv : u.commitTables.onlyMerge v) (hm : v.m = u.m) (hr : u.agent.replies = before ++ .reserved tag commitCode :: behind)
    (hb : ∀ t', Place.reserved t' commitCode ∉ before) :
    v.fillReserved commitCode .ok [] = { u with
      flows := v.flows, pool := v.pool, alarms := v.alarms
      tables := { u.tables with active := u.tables.pendingBank, commit := .none }
      sched := { u.sched with rings := v.sched.rings }
      agent := { u.agent with
        notifyPending := v.agent.notifyPending
        replies := before ++ .filled { source := u.agent.source, tag := tag, code := commitCode, status := .ok,
                                       result := [], restartsFull := false } :: behind } } := by
  obtain ⟨he, -, -⟩ := hv
  have hreplies : v.agent.replies = before ++ .reserved tag commitCode :: behind := by rw [he]; exact hr
  have hsource : v.agent.source = u.agent.source := by rw [he]; rfl
  unfold State.fillReserved
  rw [hreplies, hsource, fillPlace_oldest hb]
  rw [hm] at he
  generalize v.flows = flows, v.pool = pool, v.alarms = alarms, v.sched.rings = rings,
    v.agent.notifyPending = pending at he ⊢
  rw [he]
  rfl

end Sys2Proof.Machine
end

section
/-! PROOFS. O22: the round boundary. -/

namespace Sys2Proof.Machine

open Sys2Proof

theorem Ctx.applicableHold_ofEntry (e : Entry) (c : Ctx) :
    c.applicableHold (Params.ofEntry e)
      = if e.policy = .both ∧ c.presA.present = true ∧ c.presB.present = true
        then e.hold.toNat * 100 else e.loneHold.toNat * 100 := rfl

/-- Settles O22, one clause of the commit per case of R139 to R147. -/
theorem roundBoundaryWrapsAndCommits : Obligations.RoundBoundaryWrapsAndCommits := by
  intro s d hp hu hcal
  refine ⟨fun hc => exec_roundBoundary_wrap hp hu hcal hc, fun tag tag' before behind hc hl hr hb => ?_⟩
  have hx := exec_roundBoundary_commit (d := d) hp hu hcal hc
  have ha := State.advance_active hp d
  have hrest : (s.advance d).rewound = { s with
      timeBase := s.timeBase + d
      sched := { s.sched with position := 0, slotUsed := false } } := by rw [ha]; rfl
  rw [hrest] at hx
  generalize hru : ({ s with
      timeBase := s.timeBase + d
      sched := { s.sched with position := 0, slotUsed := false } } : State) = u at hx
  have uflows : u.flows = s.flows := by rw [← hru]
  have utables : u.tables = s.tables := by rw [← hru]
  have unow : u.timeBase = s.timeBase + d := by rw [← hru]
  have upool : u.pool = s.pool := by rw [← hru]
  have urings : u.sched.rings = s.sched.rings := by rw [← hru]
  have uagent : u.agent = s.agent := by rw [← hru]
  have uflow : ∀ n, u.flow n = s.flow n := fun n => State.flow_of_flows uflows n
  have uentry : ∀ n, u.entry n = s.entry n := fun n => congrArg (fun t : Tables => t.active.entry n) utables
  have ul : u.flows.length = 128 := by rw [uflows]; exact hl
  have hflow := fun n => State.flow_commitContexts (s := u) ul n
  have hloss := fun n => State.commitContexts_loss (s := u) (n := n) ul
  have hsole := fun n => State.commitContexts_sole (s := u) (n := n) (old := s.entry n)
    (new := s.tables.pendingBank.entry n) ul
  have hfill := State.commitContexts_fillReserved (State.commitContexts_onlyMerge u) (State.commitContexts_m u)
    (by rw [uagent]; exact hr) hb
  generalize u.commitContexts = v at hx hflow hloss hsole hfill
  simp only [uflow, uentry, utables, unow] at hflow hloss
  refine ⟨_, hx, ?_⟩
  rw [hfill]
  refine ⟨by rw [utables], by rw [← hru], by rw [← hru], by rw [uagent], by rw [ha, ← hru], ?_, ?_, ?_, ?_⟩
  · intro n ho hn
    exact (hflow n).trans (Ctx.committed_invalid ho hn _ _)
  · intro n he
    refine (hflow n).trans ?_
    rw [he]
    exact Ctx.committed_same _ _ _
  · intro n ho hn
    exact (hflow n).trans (Ctx.committed_valid ho hn _ _)
  · intro n ho hn hlabel hne old new c now same kept aligned b hold
    have hb' : c.commitFields old new = b := Ctx.commitFields_eq old new c
    have hset : v.flow n = (Ctx.settle new now b).1 := by
      rw [← hb']
      exact (hflow n).trans (Ctx.committed_keeps ho hn hlabel hne _ _)
    have hidle : c.state = .unseeded → v.flow n = b := fun hs => by
      rw [hset, Ctx.settle_stay (Ctx.micro_idle _ _ (by rw [show b.state = c.state from rfl, hs]; decide)
        (by rw [show b.state = c.state from rfl, hs]; decide))]
    have hhold : b.applicableHold (Params.ofEntry new) = hold := Ctx.applicableHold_ofEntry new b
    obtain ⟨hempty, hwaits, hseeds⟩ := Ctx.settle_settlesTo (loss := hasKind v.alarms.latched .loss = true) (now := now)
      hhold fun h => hloss n ho hn hlabel hne (by rw [← hb'] at h; exact h)
    rw [← hset] at hempty hwaits hseeds
    refine ⟨hidle, hempty, hwaits, hseeds, fun only hrings hcls => ?_⟩
    obtain ⟨hpool, hring⟩ := hsole n (by rw [urings]; exact hrings) (uentry n) (by rw [utables]) ho hn hlabel hne
      (by rw [uflow]; exact hcls) (fun i hi => by rw [uentry, utables]; exact only i hi)
    have hfreed : (if new.window.size < old.window.size then (c.beyond new.window.size).length else 0)
        = c.held.length - kept.length := by
      by_cases h : new.window.size < old.window.size
      · rw [if_pos h, Ctx.beyond_length]
        exact congrArg (fun l : List HeldRec => c.held.length - l.length) (if_pos h).symm
      · rw [if_neg h]
        exact (Nat.sub_eq_zero_of_le (Nat.le_of_eq (congrArg List.length (if_neg h).symm))).symm
    rw [uflow, upool, hfreed] at hpool
    refine ⟨hpool, fun k => ?_⟩
    have hk := hring k
    rw [uflow, State.ring_of_sched urings] at hk
    exact hk

end Sys2Proof.Machine
end

section
/-! PROOFS. Context M releases and the agent disposes of what it released: the rules for O19, O20 and O32. -/

namespace Sys2Proof.Machine

open Sys2Proof

/-! ## A run of context M -/

section
variable {p : Params} {now : Time} {hold : Nat}

/-- The record at NES is released before the rest settles. -/
theorem Ctx.settleRun_pass {h : HeldRec} {rest run left : List HeldRec} {fuel : Nat} {c : Ctx} (hs : c.state = .running)
    (hh : c.held = h :: rest) (hn : h.buffer.cell.seq = c.nes)
    (ih : (c.passRec h rest).settleRun p now fuel
      = { ctx := (c.passRec h rest).ran hold run left, released := run.map HeldRec.buffer, lost := false }) :
    c.settleRun p now (fuel + 1)
      = { ctx := c.ran hold (h :: run) left, released := (h :: run).map HeldRec.buffer, lost := false } := by
  rw [Ctx.ran_passRec] at ih
  rw [Ctx.settleRun, Ctx.micro_release hs hh hn]
  simp only [Ctx.releaseRec_eq_passRec rest hn, ih, List.map_cons]

theorem consecutive_tail {n : Seq} {h : HeldRec} {run : List HeldRec}
    (hrun : ∀ (i : Nat) (r : HeldRec), (h :: run)[i]? = some r → r.buffer.cell.seq = n + BitVec.ofNat 16 i) :
    h.buffer.cell.seq = n ∧ ∀ k : Nat, h.buffer.cell.seq + 1 + BitVec.ofNat 16 k = n + BitVec.ofNat 16 (k + 1) := by
  have hn : h.buffer.cell.seq = n := by simpa using hrun 0 h rfl
  refine ⟨hn, fun k => ?_⟩
  rw [hn, BitVec.add_assoc, BitVec.ofNat_add, BitVec.add_comm (1 : Seq)]
  rfl

/-- An in-order run is released with no gap given up. -/
theorem Ctx.settleRun_consecutive {rest : List HeldRec} (run : List HeldRec) : ∀ {fuel : Nat} {c : Ctx},
    c.state = .running → c.held = run ++ rest → c.history.length ≤ 64 → run.length < fuel →
    c.applicableHold p = hold →
    (∀ (i : Nat) (r : HeldRec), run[i]? = some r → r.buffer.cell.seq = c.nes + BitVec.ofNat 16 i) →
    (∀ r : HeldRec, rest.head? = some r →
      r.buffer.cell.seq ≠ c.nes + BitVec.ofNat 16 run.length ∧ ticksSince now r.buffer.stamp < hold) →
    c.settleRun p now fuel = { ctx := c.ran hold run rest, released := run.map HeldRec.buffer, lost := false } := by
  induction run with
  | nil =>
    intro fuel c hs hh hist hf hhold _ hw
    obtain ⟨k, rfl⟩ : ∃ k, fuel = k + 1 := ⟨fuel - 1, by rw [List.length_nil] at hf; omega⟩
    refine Ctx.settleRun_stay ?_ k
    rw [Ctx.ran, Ctx.afterRun_nil _ _ _ _ hist]
    cases rest with
    | nil => exact (Ctx.micro_running_nil hs hh).trans (by rw [hh]; rfl)
    | cons r rest =>
      obtain ⟨hn, hwait⟩ := hw r rfl
      have hn' : r.buffer.cell.seq ≠ c.nes := by simpa using hn
      rw [Ctx.micro_gap_waits hs hh hn' (.inr (by rw [hhold]; exact hwait)), hhold]
      simp [hh, deadlineAt]
  | cons h run ih =>
    intro fuel c hs hh hist hf hhold hrun hw
    obtain ⟨k, rfl⟩ : ∃ k, fuel = k + 1 := ⟨fuel - 1, by rw [List.length_cons] at hf; omega⟩
    obtain ⟨hn, hnext⟩ := consecutive_tail hrun
    refine Ctx.settleRun_pass hs hh hn (ih (c := c.passRec h (run ++ rest)) hs rfl (c.passRec_history h _)
      (Nat.lt_of_succ_lt_succ hf) hhold (fun i r hr => ?_) (fun r hr => ?_))
    · exact (hrun (i + 1) r hr).trans (hnext i).symm
    · exact ⟨(hnext run.length).symm ▸ (hw r hr).1, (hw r hr).2⟩

/-- What such a run leaves has nothing to do. -/
theorem Ctx.ran_settled {run rest : List HeldRec} {c : Ctx} (hs : c.state = .running) (hhold : c.applicableHold p = hold)
    (hrun : ∀ (i : Nat) (r : HeldRec), run[i]? = some r → r.buffer.cell.seq = c.nes + BitVec.ofNat 16 i)
    (hw : ∀ r : HeldRec, rest.head? = some r → r.buffer.cell.seq ≠ c.nes + BitVec.ofNat 16 run.length) :
    (c.ran hold run rest).settled p now := by
  have hhold' : (c.ran hold run rest).applicableHold p = hold := hhold
  cases rest with
  | nil => exact Ctx.micro_running_nil hs rfl
  | cons r rest =>
    have hn : r.buffer.cell.seq ≠ (c.ran hold run (r :: rest)).nes := by
      show _ ≠ nesBehind c.nes run
      rw [nesBehind_consecutive hrun]
      exact hw r rfl
    have hstay := Ctx.micro_gap_waits (p := p) (now := now) (c := c.ran hold run (r :: rest)) hs rfl hn
      (.inl (by rw [hhold']; rfl))
    rw [hhold'] at hstay
    exact hstay
end

/-! ## Disposing of the released cells -/

/-- A settling of context M that leaves it with nothing to do is done once. -/
theorem State.settle_settled {s t : State} {released : List Buffer} (hr : s.settleM = (released, t))
    (hm : t.m.settled t.mParams t.timeBase) (fuel : Nat) (waiting : List Buffer) :
    s.settle (fuel + 1) waiting = t.settle (fuel + 1) (waiting ++ released) := by
  have ht : t.settleM = ([], t) := State.settleM_stay hm
  simp only [State.settle, hr, ht, List.append_nil]

/-- A context M that releases one run and then rests hands that run over. -/
theorem State.settleAgent_run {s : State} {h : HeldRec} {run rest : List HeldRec} (hs : s.m.state = .running)
    (hh : s.m.held = h :: (run ++ rest))
    (hrun : ∀ (i : Nat) (r : HeldRec), (h :: run)[i]? = some r → r.buffer.cell.seq = s.m.nes + BitVec.ofNat 16 i)
    (hw : ∀ r : HeldRec, rest.head? = some r → r.buffer.cell.seq ≠ s.m.nes + BitVec.ofNat 16 (run.length + 1) ∧
      ticksSince s.timeBase r.buffer.stamp < s.tables.settings.managementHold.toNat * 100) :
    let t : State := { s with m := s.m.ran (s.tables.settings.managementHold.toNat * 100) (h :: run) rest }
    t.m.settled t.mParams t.timeBase ∧ s.settleAgent = t.settle s.settleFuel ((h :: run).map HeldRec.buffer) := by
  intro t
  have hhold := Ctx.applicableHold_m s.tables.settings s.m
  obtain ⟨hn, hnext⟩ := consecutive_tail hrun
  have hr : s.settleM = ((h :: run).map HeldRec.buffer, t) := by
    have hrest := Ctx.settleRun_consecutive (p := s.mParams) (now := s.timeBase) (rest := rest) run
      (fuel := 2 * s.m.held.length + 1) (c := s.m.passRec h (run ++ rest)) hs rfl (s.m.passRec_history h _)
      (by rw [hh, List.length_cons, List.length_append]; omega) hhold
      (fun i r hr => (hrun (i + 1) r hr).trans (hnext i).symm)
      (fun r hr => ⟨(hnext run.length).symm ▸ (hw r hr).1, (hw r hr).2⟩)
    unfold State.settleM Ctx.settleFuel
    rw [Ctx.settleRun_pass hs hh hn hrest]
    rfl
  have hm : t.m.settled t.mParams t.timeBase := Ctx.ran_settled hs hhold hrun fun r hr => (hw r hr).1
  exact ⟨hm, State.settle_settled hr hm _ []⟩

/-- Buffers returned: beside the pool only the copy of POOL_EMPTY can change. -/
theorem State.freeBuffers_exact (n : Nat) (s : State) :
    s.freeBuffers n = { s with
      pool := { s.pool with free := s.pool.free + n }, alarms := (s.freeBuffers n).alarms } ∧
    (s.freeBuffers n).alarms.latched = s.alarms.latched := by
  unfold State.freeBuffers
  split
  · next h => subst h; exact ⟨rfl, rfl⟩
  · exact ⟨rfl, rfl⟩

/-- A released cell is for this part: it carries a command, addressed to it (R152). -/
def State.forThisPart (b : Buffer) (s : State) : Prop :=
  byteAt b.cell.payload 4 &&& replyFlag = 0 ∧ s.agent.addressed (byteAt b.cell.payload 0) = true

/-- The command of a management cell (section 12.2). -/
def commandOf (b : Buffer) : Command :=
  { target := byteAt b.cell.payload 0, tag := byteAt b.cell.payload 1, code := byteAt b.cell.payload 2,
    args := fitBytes Config.argBytes (b.cell.payload.drop 5) }

/-- Cells handed over that were not for this part: each returned its buffer and counted NOT_FOR_ME (R75, R152). -/
def State.disposed (k : Nat) (s t : State) : Prop :=
  t = { s with
    pool := { s.pool with free := s.pool.free + k }
    device := { s.device with notForMe := s.device.notForMe + BitVec.ofNat 32 k }
    alarms := t.alarms } ∧ t.alarms.latched = s.alarms.latched

theorem State.disposed_zero (s : State) : State.disposed 0 s s := ⟨by simp, rfl⟩

theorem State.disposed_trans {j k : Nat} {s t u : State} (h : State.disposed j s t) (h' : State.disposed k t u) :
    State.disposed (j + k) s u := by
  obtain ⟨ht, hl⟩ := h
  obtain ⟨hu, hl'⟩ := h'
  refine ⟨?_, hl'.trans hl⟩
  rw [hu, ht]
  simp [Nat.add_assoc, BitVec.add_assoc, BitVec.ofNat_add]

theorem State.handOverCell_eq {b : Buffer} {s : State} (hf : s.pool.free < Config.poolSize) :
    s.handOverCell b = (s.freeBuffers 1).deliver (byteAt b.cell.payload 4) (commandOf b) := by
  unfold State.handOverCell
  rw [if_pos hf]
  rfl

theorem State.handOverCell_elsewhere {b : Buffer} {s : State} (hf : s.pool.free < Config.poolSize)
    (hb : ¬ s.forThisPart b) : State.disposed 1 s (s.handOverCell b) := by
  obtain ⟨he, hl⟩ := State.freeBuffers_exact 1 s
  rw [State.handOverCell_eq hf]
  generalize s.freeBuffers 1 = u at he hl ⊢
  have hagent : u.agent = s.agent := by rw [he]
  have hno : ¬ (byteAt b.cell.payload 4 &&& replyFlag = 0 ∧ u.agent.addressed (commandOf b).target = true) := by
    rw [hagent]; exact hb
  unfold State.deliver
  rw [if_neg hno]
  exact ⟨by rw [he]; rfl, hl⟩

theorem State.handOverCell_received {b : Buffer} {s : State} (hf : s.pool.free < Config.poolSize)
    (hb : s.forThisPart b) : s.handOverCell b = (s.freeBuffers 1).receiveCommand (commandOf b) := by
  obtain ⟨he, -⟩ := State.freeBuffers_exact 1 s
  rw [State.handOverCell_eq hf]
  generalize s.freeBuffers 1 = u at he ⊢
  have hagent : u.agent = s.agent := by rw [he]
  unfold State.deliver
  rw [if_pos (by rw [hagent]; exact hb)]

theorem State.receiveCommand_waits {c : Command} {s : State} (h : s.agent.commands.length < 4) :
    s.receiveCommand c = { s with agent := { s.agent with commands := s.agent.commands ++ [c] } } := if_pos h

theorem State.handOverCell_waits {b : Buffer} {s : State} (hf : s.pool.free < Config.poolSize) (hb : s.forThisPart b)
    (hc : s.agent.commands.length < 4) :
    s.handOverCell b = { s with
      pool := { s.pool with free := s.pool.free + 1 }
      alarms := (s.freeBuffers 1).alarms
      agent := { s.agent with commands := s.agent.commands ++ [commandOf b] } } := by
  obtain ⟨he, -⟩ := State.freeBuffers_exact 1 s
  rw [State.handOverCell_received hf hb]
  generalize s.freeBuffers 1 = u at he ⊢
  have hagent : u.agent = s.agent := by rw [he]
  rw [State.receiveCommand_waits (by rw [hagent]; exact hc), hagent]
  generalize u.alarms = alarms at he ⊢
  rw [he]

/-- A released command for this part that cannot execute waits, and nothing follows (R153, R154). -/
theorem State.settle_command {b : Buffer} {s : State} (hm : s.m.settled s.mParams s.timeBase)
    (hwait : 8 ≤ s.agent.replies.length ∨ s.agent.restartWaiting = true) (hf : s.pool.free < Config.poolSize)
    (hb : s.forThisPart b) (hc : s.agent.commands.length < 4) (fuel : Nat) :
    s.settle (fuel + 1) [b] = { s with
      pool := { s.pool with free := s.pool.free + 1 }
      alarms := (s.freeBuffers 1).alarms
      agent := { s.agent with commands := s.agent.commands ++ [commandOf b] } } := by
  rw [State.settle_handOver fuel b [] (Agent.canExecute_waits hwait) hm, State.handOverCell_waits hf hb hc]
  exact State.settle_done fuel (Agent.canExecute_waits hwait) hm

/-- Waiting cells of which none is for this part are handed over in their order. -/
theorem State.settle_elsewhere : ∀ (waiting : List Buffer) {fuel : Nat} {s : State}, waiting.length ≤ fuel →
    s.agent.commands = [] → s.m.settled s.mParams s.timeBase → s.pool.free + waiting.length ≤ Config.poolSize →
    (∀ b ∈ waiting, ¬ s.forThisPart b) → State.disposed waiting.length s (s.settle fuel waiting)
  | [], fuel, s, _, hc, hm, _, _ => by
    rw [State.settle_done fuel (Agent.canExecute_idle hc) hm]
    exact State.disposed_zero s
  | b :: waiting, 0, _, h, _, _, _, _ => absurd h (by simp)
  | b :: waiting, fuel + 1, s, h, hc, hm, hf, hb => by
    rw [List.length_cons] at h hf
    rw [State.settle_handOver fuel b waiting (Agent.canExecute_idle hc) hm]
    have hone := State.handOverCell_elsewhere (by omega) (hb b List.mem_cons_self)
    have he := hone.1
    have hrest := State.settle_elsewhere waiting (fuel := fuel) (s := s.handOverCell b) (by omega) (by rw [he]; exact hc)
      (by rw [he]; exact hm) (by rw [he]; show s.pool.free + 1 + waiting.length ≤ _; omega)
      (fun x hx => by
        have ha : (s.handOverCell b).agent = s.agent := by rw [he]
        unfold State.forThisPart
        rw [ha]
        exact hb x (List.mem_cons_of_mem _ hx))
    have := State.disposed_trans hone hrest
    rwa [Nat.add_comm] at this

end Sys2Proof.Machine
end

section
/-! PROOFS. O19: the seeding deadline of a flow and of context M. -/

namespace Sys2Proof.Machine

open Sys2Proof

theorem exec_seedingDeadline_due {s : State} {i : ContextId} {d : Time}
    (h : ((s.advance d).ctx i).seedingDue ((s.advance d).params i) (s.advance d).timeBase = true) :
    exec (.seedingDeadline i d) s = .next ((s.advance d).expireSeeding i) :=
  congrArg Host.Outcome.next (if_pos h)

theorem Ctx.seedingDue_eq_true {p : Params} {now stamp : Time} {c : Ctx} (hs : c.state = .seeding)
    (hst : c.seedingStamp = some stamp) (h : c.applicableHold p ≤ (now - stamp).toNat) : c.seedingDue p now = true := by
  unfold Ctx.seedingDue
  rw [hs, hst]
  exact decide_eq_true h

/-! ## Context M -/

theorem State.expireSeeding_empty {s : State} (hh : s.m.held = []) (hc : s.agent.commands = []) :
    s.expireSeeding .m = { s with
      m := { s.m with state := .unseeded, seedingStamp := none, seedingDeadline := none } } := by
  unfold State.expireSeeding
  rw [Ctx.endSeeding_nil hh]
  exact State.settleAgent_done (Agent.canExecute_idle hc) (Ctx.micro_idle _ _ (fun e => nomatch e) (fun e => nomatch e))

/-- Context M after its run from the lowest held number (R30). -/
def State.seededM (h : HeldRec) (run rest : List HeldRec) (s : State) : State :=
  { s with m := { Ctx.afterRun Entry.default (s.tables.settings.managementHold.toNat * 100) (h :: run) rest { s.m with
      state := .running, nes := h.buffer.cell.seq, seedingStamp := none, seedingDeadline := none } with
    queue := s.m.queue } }

theorem State.expireSeeding_run {s : State} {h : HeldRec} {run rest : List HeldRec} (hh : s.m.held = h :: (run ++ rest))
    (hrun : ∀ (i : Nat) (r : HeldRec), run[i]? = some r →
      r.buffer.cell.seq = h.buffer.cell.seq + BitVec.ofNat 16 (i + 1))
    (hw : ∀ r : HeldRec, rest.head? = some r →
      r.buffer.cell.seq ≠ h.buffer.cell.seq + BitVec.ofNat 16 (run.length + 1) ∧
      (s.timeBase - r.buffer.stamp).toNat < s.tables.settings.managementHold.toNat * 100) :
    (s.seededM h run rest).m.settled s.mParams s.timeBase ∧
    ∃ fuel, run.length + 1 ≤ fuel ∧
      s.expireSeeding .m = (s.seededM h run rest).settle fuel ((h :: run).map HeldRec.buffer) := by
  have hend := Ctx.endSeeding_cons hh
  have hstart : s.m.endSeeding.nes = h.buffer.cell.seq := by rw [hend]
  have hheld : s.m.endSeeding.held = h :: (run ++ rest) := by rw [hend]; exact hh
  have hstate : s.m.endSeeding.state = .running := by rw [hend]
  have hm : ({ s with m := s.m.endSeeding.ran (s.tables.settings.managementHold.toNat * 100) (h :: run) rest } : State)
      = s.seededM h run rest := by
    rw [hend]
    rfl
  obtain ⟨hsettled, he⟩ := State.settleAgent_run (s := { s with m := s.m.endSeeding }) (h := h) (run := run) (rest := rest)
    hstate hheld
    (fun i r hr => by
      show r.buffer.cell.seq = s.m.endSeeding.nes + _
      rw [hstart]
      cases i with
      | zero =>
        obtain rfl : h = r := by simpa using hr
        simp
      | succ i => exact hrun i r hr)
    (by
      show ∀ r : HeldRec, rest.head? = some r → r.buffer.cell.seq ≠ s.m.endSeeding.nes + _ ∧ _
      rw [hstart]
      exact hw)
  rw [← hm]
  refine ⟨hsettled, _, ?_, he⟩
  show run.length + 1 ≤ 2 * s.m.endSeeding.held.length + s.agent.commands.length + 1
  rw [hheld, List.length_cons, List.length_append]
  omega

theorem State.forThisPart_elsewhere {b : Buffer} {s : State} (h31 : (byteAt b.cell.payload 0).toNat ≠ 31)
    (hstrap : (byteAt b.cell.payload 0).toNat ≠ s.agent.strap.toNat) : ¬ s.forThisPart b := fun h =>
  ((Agent.addressed_iff _ _).mp h.2).elim h31 hstrap

/-- None of the run is for this part (R152). -/
theorem State.expireSeeding_elsewhere {s : State} {h : HeldRec} {run rest : List HeldRec}
    (hc : s.agent.commands = []) (hh : s.m.held = h :: (run ++ rest))
    (hrun : ∀ (i : Nat) (r : HeldRec), run[i]? = some r →
      r.buffer.cell.seq = h.buffer.cell.seq + BitVec.ofNat 16 (i + 1))
    (hw : ∀ r : HeldRec, rest.head? = some r →
      r.buffer.cell.seq ≠ h.buffer.cell.seq + BitVec.ofNat 16 (run.length + 1) ∧
      (s.timeBase - r.buffer.stamp).toNat < s.tables.settings.managementHold.toNat * 100)
    (hf : s.pool.free + (run.length + 1) ≤ 2048) (hno : ∀ r ∈ h :: run, ¬ s.forThisPart r.buffer) :
    State.disposed (run.length + 1) (s.seededM h run rest) (s.expireSeeding .m) := by
  obtain ⟨hm, fuel, hfuel, he⟩ := State.expireSeeding_run hh hrun hw
  rw [he]
  have hd := State.settle_elsewhere ((h :: run).map HeldRec.buffer) (fuel := fuel) (s := s.seededM h run rest)
    (by rw [List.length_map]; exact hfuel) hc hm (by rw [List.length_map]; exact hf) (by
      intro b hb
      obtain ⟨r, hr, rfl⟩ := List.mem_map.mp hb
      exact hno r hr)
  rw [List.length_map] at hd
  exact hd

/-- A single cell that carries a command for this part: the command waits (R153, R154). -/
theorem State.expireSeeding_command {s : State} {h : HeldRec} {rest : List HeldRec}
    (hc : s.agent.commands = []) (hh : s.m.held = h :: rest)
    (hw : ∀ r : HeldRec, rest.head? = some r →
      r.buffer.cell.seq ≠ h.buffer.cell.seq + BitVec.ofNat 16 1 ∧
      (s.timeBase - r.buffer.stamp).toNat < s.tables.settings.managementHold.toNat * 100)
    (hf : s.pool.free + 1 ≤ 2048) (hfor : s.forThisPart h.buffer)
    (hwait : 8 ≤ s.agent.replies.length ∨ s.agent.restartWaiting = true) :
    ∃ t : State, s.expireSeeding .m = t ∧ t = { s.seededM h [] rest with
      pool := { s.pool with free := s.pool.free + 1 }
      alarms := t.alarms
      agent := { s.agent with commands := [commandOf h.buffer] } } := by
  obtain ⟨hm, fuel, hfuel, he⟩ := State.expireSeeding_run (run := []) hh (fun i r hr => by simp at hr) hw
  obtain ⟨fuel, rfl⟩ : ∃ k, fuel = k + 1 := ⟨fuel - 1, by omega⟩
  have hone := State.settle_command (s := s.seededM h [] rest) hm hwait hf hfor
    (show s.agent.commands.length < 4 by rw [hc]; decide) fuel
  refine ⟨_, he.trans hone, ?_⟩
  have hcmd : (s.seededM h [] rest).agent.commands ++ [commandOf h.buffer] = [commandOf h.buffer] :=
    congrArg (· ++ [commandOf h.buffer]) hc
  rw [hcmd]
  rfl

/-! ## The flow -/

theorem State.expireSeeding_flow {s : State} {n : Index} {c : Ctx} (hl : s.flows.length = 128) (hc : s.flow n = c) :
    (s.expireSeeding (.flow n)).flow n = (Ctx.settle (s.entry n) s.timeBase c.endSeeding).1 := by
  subst hc
  exact State.flow_changeFlow_self hl n Ctx.endSeeding

theorem State.onlyFlow_expireSeeding (n : Index) (s : State) : State.onlyFlow n s (s.expireSeeding (.flow n)) :=
  State.onlyFlow_changeFlow (Ctx.sameQueue_endSeeding _).2

/-- A flow's seeding ends: it releases the in-order run from its lowest held number (R30, R40). -/
theorem Ctx.settle_endSeeding_run {e : Entry} {now : Time} {c : Ctx} {h : HeldRec} {run rest : List HeldRec}
    (hh : c.held = h :: (run ++ rest))
    (hrun : ∀ (i : Nat) (r : HeldRec), run[i]? = some r →
      r.buffer.cell.seq = h.buffer.cell.seq + BitVec.ofNat 16 (i + 1))
    (hw : ∀ r : HeldRec, rest.head? = some r →
      r.buffer.cell.seq ≠ h.buffer.cell.seq + BitVec.ofNat 16 (run.length + 1) ∧
      (now - r.buffer.stamp).toNat < c.applicableHold (Params.ofEntry e)) :
    (Ctx.settle e now c.endSeeding).1
      = c.endSeeding.afterRun e (c.applicableHold (Params.ofEntry e)) (h :: run) rest ∧
    nesBehind h.buffer.cell.seq (h :: run) = h.buffer.cell.seq + BitVec.ofNat 16 (run.length + 1) := by
  have hend := Ctx.endSeeding_cons hh
  have hheld : c.endSeeding.held = h :: (run ++ rest) := by rw [hend]; exact hh
  have hstate : c.endSeeding.state = .running := by rw [hend]
  have hnes : h.buffer.cell.seq = c.endSeeding.nes := by rw [hend]
  have hhold : c.endSeeding.applicableHold (Params.ofEntry e) = c.applicableHold (Params.ofEntry e) := by rw [hend]; rfl
  have hnext : ∀ k : Nat, h.buffer.cell.seq + 1 + BitVec.ofNat 16 k = h.buffer.cell.seq + BitVec.ofNat 16 (k + 1) :=
    fun k => by rw [BitVec.add_assoc, BitVec.ofNat_add, BitVec.add_comm (1 : Seq)]; rfl
  have hrun' : ∀ (i : Nat) (r : HeldRec), run[i]? = some r →
      r.buffer.cell.seq = h.buffer.cell.seq + 1 + BitVec.ofNat 16 i := fun i r hr => (hrun i r hr).trans (hnext i).symm
  have hsplit := splitRun_consecutive (hold := c.applicableHold (Params.ofEntry e)) (now := now) hrun'
    (fun r hr => ⟨(hnext run.length).symm ▸ (hw r hr).1, (hw r hr).2⟩)
  have hleaves := (Ctx.settle_leaves (now := now) hstate hheld (.inl hnes) hhold).1
  rw [hsplit] at hleaves
  exact ⟨hleaves, by rw [nesBehind_cons, nesBehind_consecutive hrun', hnext]⟩

/-- Settles O19. -/
theorem seedingDeadlineEndsSeeding : Obligations.SeedingDeadlineEndsSeeding := by
  intro s n d stamp s1
  have hx := fun i => exec_seedingDeadline_due (s := s) (i := i) (d := d)
  have hm : s1.m = s.m := by simp [s1]
  have ht : s1.tables = s.tables := by simp [s1]
  have hflows : s1.flows = s.flows := by simp [s1]
  have hagent : s1.agent = s.agent := by simp [s1]
  have hpool : s1.pool = s.pool := by simp [s1]
  have hdevice : s1.device = s.device := by simp [s1]
  change ∀ i, (s1.ctx i).seedingDue (s1.params i) s1.timeBase = true →
    exec (.seedingDeadline i d) s = .next (s1.expireSeeding i) at hx
  clear_value s1
  have hxm : s.m.state = .seeding → s.m.seedingStamp = some stamp →
      s.tables.settings.managementHold.toNat * 100 ≤ (s1.timeBase - stamp).toNat →
      exec (.seedingDeadline .m d) s = .next (s1.expireSeeding .m) := fun hs hst hdue =>
    hx .m (Ctx.seedingDue_eq_true (stamp := stamp) (by rw [← hs, ← hm]; rfl) (by rw [← hst, ← hm]; rfl) (by
      rw [← ht] at hdue
      exact le_of_eq_of_le (Ctx.applicableHold_m s1.tables.settings s1.m) hdue))
  refine ⟨fun hs hst hh hc hdue => ?_, ?_, ?_⟩
  · rw [hxm hs hst hdue, State.expireSeeding_empty (by rw [hm]; exact hh) (by rw [hagent]; exact hc), hm]
  · intro hs hst hc hdue h run rest hh hold target m hrun hw hf
    have hseeded : s1.seededM h run rest = { s1 with m := { m with queue := s.m.queue } } := by
      unfold State.seededM
      rw [hm, ht]
    refine ⟨fun hno => ?_, fun hone hflag htarget hwait => ?_⟩
    · have hd := State.expireSeeding_elsewhere (s := s1) (by rw [hagent]; exact hc) (by rw [hm]; exact hh) hrun
        (by rw [ht]; exact hw) (by rw [hpool]; exact hf)
        (fun r hr => State.forThisPart_elsewhere (hno r hr).1 (by rw [hagent]; exact (hno r hr).2))
      refine ⟨_, hxm hs hst hdue, ?_⟩
      rw [← hpool, ← hdevice]
      rw [hseeded] at hd
      exact hd.1
    · subst hone
      obtain ⟨t, hx', he⟩ := State.expireSeeding_command (s := s1) (h := h) (rest := rest) (by rw [hagent]; exact hc)
        (by rw [hm]; exact hh) (by rw [ht]; exact hw) (by rw [hpool]; exact hf)
        ⟨hflag, (Agent.addressed_iff _ _).mpr (by rw [hagent]; exact htarget)⟩ (by rw [hagent]; exact hwait)
      refine ⟨t, (hxm hs hst hdue).trans (congrArg _ hx'), ?_⟩
      rw [hseeded, hagent, hpool] at he
      exact he
  · intro c hold hl hs hst hdue
    have hflow : s1.flow n = c := State.flow_of_flows hflows n
    have hentry : s1.entry n = s.entry n := congrArg (fun t : Tables => t.active.entry n) ht
    have hx1 : exec (.seedingDeadline (.flow n) d) s = .next (s1.expireSeeding (.flow n)) := by
      refine hx _ (Ctx.seedingDue_eq_true (stamp := stamp) (c := s1.flow n) (by rw [hflow]; exact hs)
        (by rw [hflow]; exact hst) ?_)
      show (s1.flow n).applicableHold (Params.ofEntry (s1.entry n)) ≤ _
      rw [hflow, hentry]
      exact hdue
    have hf := State.expireSeeding_flow (s := s1) (n := n) (by rw [hflows]; exact hl) hflow
    rw [hentry] at hf
    refine ⟨fun hh => ⟨_, hx1, ?_, State.onlyFlow_expireSeeding n s1⟩, fun h run rest hh hrun hw => ?_⟩
    · rw [hf, Ctx.endSeeding_nil hh]
      refine congrArg Prod.fst (Ctx.settle_stay (Ctx.micro_idle _ _ ?_ ?_)) <;> simp
    · obtain ⟨hleaves, hnes⟩ := Ctx.settle_endSeeding_run (e := s.entry n) hh hrun hw
      rw [hleaves, Ctx.endSeeding_cons hh] at hf
      have hmap := sentAs_map (s.entry n) (h :: run) c.renumber
      refine ⟨_, hx1, ?_⟩
      rw [hf]
      refine ⟨rfl, rfl, hnes, ?_, rfl, rfl, State.onlyFlow_expireSeeding n s1⟩
      show (c.queue ++ sentAs (s.entry n) c.renumber (h :: run)).map _ = _
      rw [List.map_append, hmap]

end Sys2Proof.Machine
end

section
/-! PROOFS. O20: the gap deadline of a flow and of context M. -/

namespace Sys2Proof.Machine

open Sys2Proof

theorem exec_gapExpiry_due {s : State} {i : ContextId} {d : Time}
    (h : ((s.advance d).ctx i).gapDue ((s.advance d).params i) (s.advance d).timeBase = true) :
    exec (.gapExpiry i d) s = .next ((s.advance d).expireGap i) :=
  congrArg Host.Outcome.next (if_pos h)

theorem Ctx.gapDue_eq_true {p : Params} {now : Time} {c : Ctx} {h : HeldRec} {above : List HeldRec}
    (hs : c.state = .running) (hh : c.held = h :: above)
    (hd : c.applicableHold p ≤ (now - h.buffer.stamp).toNat) : c.gapDue p now = true := by
  unfold Ctx.gapDue
  rw [hs, hh]
  exact decide_eq_true hd

theorem Ctx.giveUpLowest_cons {c : Ctx} {h : HeldRec} {above : List HeldRec} (hh : c.held = h :: above) :
    c.giveUpLowest = c.giveUpGap h := by
  unfold Ctx.giveUpLowest
  rw [hh]

/-- The gap given up before the record above it is released is part of that release (R59). -/
theorem Ctx.afterRun_giveUpGap (e : Entry) (hold : Nat) (h : HeldRec) (run rest : List HeldRec) (c : Ctx) :
    (c.giveUpGap h).afterRun e hold (h :: run) rest = c.afterRun e hold (h :: run) rest := by
  rw [← Ctx.afterRun_passRec e hold h run rest rest (c.giveUpGap h), ← Ctx.releaseRec_eq_passRec rest rfl]
  exact Ctx.afterRun_passRec e hold h run rest rest c

/-! ## Context M -/

theorem State.latched_latch (k : AlarmKind) (s : State) : hasKind (s.latch k).alarms.latched k = true := by
  rw [State.latch_latched]
  simp

/-- Context M's only record is past its deadline and not for this part (R59, R75, R152). -/
theorem State.expireGap_elsewhere {s : State} {h : HeldRec} (hs : s.m.state = .running) (hh : s.m.held = [h])
    (hc : s.agent.commands = []) (hf : s.pool.free < Config.poolSize) (hno : ¬ s.forThisPart h.buffer) :
    State.disposed 1 { s.latch .loss with
      m := s.m.ran (s.tables.settings.managementHold.toNat * 100) [h] [] } (s.expireGap .m) := by
  have hlatch := (State.latch_onlyAlarms .loss s).1
  have hran : (s.m.giveUpGap h).ran (s.tables.settings.managementHold.toNat * 100) [h] []
      = s.m.ran (s.tables.settings.managementHold.toNat * 100) [h] [] := by
    unfold Ctx.ran
    rw [Ctx.afterRun_giveUpGap]
    rfl
  unfold State.expireGap
  rw [Ctx.giveUpLowest_cons hh, ← hran]
  generalize s.latch .loss = u at hlatch ⊢
  have htables : u.tables = s.tables := by rw [hlatch]
  obtain ⟨hm, he⟩ := State.settleAgent_run (s := { u with m := s.m.giveUpGap h }) (h := h) (run := []) (rest := [])
    hs hh
    (fun i r hr => by
      cases i with
      | zero =>
        obtain rfl : h = r := by simpa using hr
        simp [Ctx.giveUpGap]
      | succ i => simp at hr)
    (fun r hr => by cases hr)
  have hhold : u.tables.settings.managementHold.toNat = s.tables.settings.managementHold.toNat := by rw [htables]
  have hd := State.settle_elsewhere ([h].map HeldRec.buffer)
    (fuel := State.settleFuel { u with m := s.m.giveUpGap h })
    (s := { u with m := (s.m.giveUpGap h).ran (u.tables.settings.managementHold.toNat * 100) [h] [] })
    (Nat.succ_le_succ (Nat.zero_le _)) (by show u.agent.commands = []; rw [hlatch]; exact hc) hm
    (by show u.pool.free + 1 ≤ _; rw [hlatch]; exact hf)
    (fun b hb => by
      obtain rfl : b = h.buffer := by simpa using hb
      have hstrap : u.agent.strap = s.agent.strap := by rw [hlatch]
      exact fun hfor => hno ⟨hfor.1, by rw [Agent.addressed_iff, ← hstrap, ← Agent.addressed_iff]; exact hfor.2⟩)
  rw [hhold] at hd
  rw [hhold] at he
  dsimp only
  rw [he]
  exact hd

/-! ## The flow -/

theorem State.expireGap_flow {s : State} {n : Index} {h : HeldRec} {above : List HeldRec} (hl : s.flows.length = 128)
    (hh : (s.flow n).held = h :: above) :
    (s.expireGap (.flow n)).flow n = (Ctx.settle (s.entry n) s.timeBase ((s.flow n).giveUpGap h)).1 := by
  have hlatch := (State.latch_onlyAlarms .loss s).1
  unfold State.expireGap
  generalize s.latch .loss = u at hlatch ⊢
  have hf : u.flow n = s.flow n := State.flow_of_flows (by rw [hlatch]) n
  have hentry : u.entry n = s.entry n := congrArg (fun t : Tables => t.active.entry n) (by rw [hlatch] : u.tables = s.tables)
  have hnow : u.timeBase = s.timeBase := by rw [hlatch]
  have := State.flow_changeFlow_self (s := u) (by rw [hlatch]; exact hl) n Ctx.giveUpLowest
  rw [hf, hentry, hnow, Ctx.giveUpLowest_cons hh] at this
  exact this

theorem Ctx.sameClass_giveUpLowest (c : Ctx) : c.giveUpLowest.servingClass = c.servingClass :=
  (Ctx.sameQueue_giveUpLowest c).2

theorem State.onlyFlow_expireGap (n : Index) (s : State) :
    State.onlyFlow n s (s.expireGap (.flow n)) ∧ hasKind (s.expireGap (.flow n)).alarms.latched .loss = true := by
  have hlatch := State.latch_onlyAlarms .loss s
  have hloss := State.latched_latch .loss s
  unfold State.expireGap
  generalize s.latch .loss = u at hlatch hloss ⊢
  have hf : u.flow n = s.flow n := State.flow_of_flows (by rw [hlatch.1]) n
  have hchange := State.onlyFlow_changeFlow (n := n) (f := Ctx.giveUpLowest) (s := u) (Ctx.sameClass_giveUpLowest _)
  exact ⟨State.onlyFlow_trans (State.onlyFlow_onlyAlarms hlatch) hchange
    (fun k hk => hchange.2.2.1 k (by rw [hf]; exact hk)), (State.changeFlow_onlyMerge n _ u).2.2 _ hloss⟩

/-- Settles O20. -/
theorem gapExpiryGivesUpAndReleases : Obligations.GapExpiryGivesUpAndReleases := by
  intro s n d h above s1
  have hx := fun i => exec_gapExpiry_due (s := s) (i := i) (d := d)
  have hm : s1.m = s.m := by simp [s1]
  have ht : s1.tables = s.tables := by simp [s1]
  have hflows : s1.flows = s.flows := by simp [s1]
  have hagent : s1.agent = s.agent := by simp [s1]
  have hpool : s1.pool = s.pool := by simp [s1]
  have hdevice : s1.device = s.device := by simp [s1]
  change ∀ i, (s1.ctx i).gapDue (s1.params i) s1.timeBase = true →
    exec (.gapExpiry i d) s = .next (s1.expireGap i) at hx
  clear_value s1
  refine ⟨fun hs hh hc hf hdue h31 hstrap => ?_, ?_⟩
  · have hx1 := hx .m (Ctx.gapDue_eq_true (h := h) (above := []) (by rw [← hs, ← hm]; rfl) (by rw [← hh, ← hm]; rfl)
      (by
        rw [← ht] at hdue
        exact le_of_eq_of_le (Ctx.applicableHold_m s1.tables.settings s1.m) hdue))
    obtain ⟨he, hl⟩ := State.expireGap_elsewhere (s := s1) (h := h) (by rw [hm]; exact hs) (by rw [hm]; exact hh)
      (by rw [hagent]; exact hc) (by rw [hpool]; exact hf)
      (State.forThisPart_elsewhere h31 (by rw [hagent]; exact hstrap))
    have hlatch := (State.latch_onlyAlarms .loss s1).1
    have hloss := State.latched_latch .loss s1
    generalize s1.latch .loss = u at he hl hlatch hloss
    rw [hm, ht] at he
    refine ⟨_, hx1, ?_⟩
    generalize s1.expireGap .m = t at he hl
    have htm : t.m = s.m.ran (s.tables.settings.managementHold.toNat * 100) [h] [] := by rw [he]
    rw [htm]
    refine ⟨rfl, hs, rfl, rfl, ?_, rfl, by rw [hl]; exact hloss, ?_⟩
    · show s.m.counters.lost + BitVec.ofNat 32 (seqDist s.m.nes h.buffer.cell.seq + 0) = _
      rw [Nat.add_zero]
    · have hnp : t.agent.notifyPending = u.agent.notifyPending := by rw [he]
      rw [hnp, ← hpool, ← hdevice, ← hagent]
      generalize t.alarms = alarms at he ⊢
      rw [he]
      generalize u.agent.notifyPending = pending, u.alarms = alarms' at hlatch
      rw [hlatch]
      rfl
  · intro c hold hl hs hh hdue
    have hflow : s1.flow n = c := State.flow_of_flows hflows n
    have hentry : s1.entry n = s.entry n := congrArg (fun t : Tables => t.active.entry n) ht
    have hx1 := hx (.flow n) (Ctx.gapDue_eq_true (c := s1.flow n) (h := h) (above := above) (by rw [hflow]; exact hs)
      (by rw [hflow]; exact hh) (by
        show (s1.flow n).applicableHold (Params.ofEntry (s1.entry n)) ≤ _
        rw [hflow, hentry]
        exact hdue))
    have hf := State.expireGap_flow (s := s1) (n := n) (h := h) (above := above) (by rw [hflows]; exact hl)
      (by rw [hflow]; exact hh)
    have hleaves := (Ctx.settle_leaves (e := s.entry n) (now := s1.timeBase) (c := c.giveUpGap h) (hold := hold) hs hh
      (.inl rfl) rfl).1
    rw [hentry, hflow, hleaves, Ctx.afterRun_giveUpGap] at hf
    obtain ⟨honly, hloss⟩ := State.onlyFlow_expireGap n s1
    exact ⟨_, hx1, Ctx.releasesFrom_splitRun hf, hloss, honly⟩

end Sys2Proof.Machine
end

section
/-! PROOFS. O32: a management cell at NES of context M. -/

namespace Sys2Proof.Machine

open Sys2Proof

/-! ## The three ways of a handed cell -/

/-- A released command for this part is lost where the command queue is full (R153). -/
theorem State.handOverCell_overruns {b : Buffer} {s : State} (hf : s.pool.free < Config.poolSize) (hb : s.forThisPart b)
    (hc : 4 ≤ s.agent.commands.length) :
    s.handOverCell b = State.latch .mgmtOverrun { s with
      pool := { s.pool with free := s.pool.free + 1 }
      device := { s.device with overrun := s.device.overrun + 1 }
      alarms := (s.freeBuffers 1).alarms
      agent := { s.agent with overrun := true } } := by
  obtain ⟨he, -⟩ := State.freeBuffers_exact 1 s
  rw [State.handOverCell_received hf hb]
  generalize s.freeBuffers 1 = u at he ⊢
  have hagent : u.agent = s.agent := by rw [he]
  have hdevice : u.device = s.device := by rw [he]
  rw [State.receiveCommand_overruns (by rw [hagent]; exact hc), hagent, hdevice]
  generalize u.alarms = alarms at he ⊢
  rw [he]

/-- Handing a cell over places no reply and lets no waiting restart go. -/
theorem State.handOverCell_replies (b : Buffer) (s : State) :
    (s.handOverCell b).agent.replies = s.agent.replies ∧
      (s.handOverCell b).agent.restartWaiting = s.agent.restartWaiting := by
  have hdeliver : ∀ (flags : Byte) (c : Command) (u : State),
      (u.deliver flags c).agent.replies = u.agent.replies ∧
        (u.deliver flags c).agent.restartWaiting = u.agent.restartWaiting := by
    intro flags c u
    unfold State.deliver State.receiveCommand
    split
    · split <;> simp
    · exact ⟨rfl, rfl⟩
  have hfreed : (if s.pool.free < Config.poolSize then s.freeBuffers 1 else s).agent = s.agent := by
    split
    · rw [(State.freeBuffers_exact 1 s).1]
    · rfl
  obtain ⟨h1, h2⟩ := hdeliver (byteAt b.cell.payload 4) (commandOf b)
    (if s.pool.free < Config.poolSize then s.freeBuffers 1 else s)
  exact ⟨h1.trans (by rw [hfreed]), h2.trans (by rw [hfreed])⟩

/-! ## The arrival -/

/-- Context M as it judged a cell at NES that it took (R32, R34). -/
def State.takenM (b : Buffer) (s : State) : Judged :=
  { ctx := { s.m with held := [{ buffer := b, otherSeen := false }], runCount := 0 }
    disp := .accepted, flushed := 0, events := [] }

section
variable {b : Buffer} {s : State}

theorem State.judge_atNesM (hs : s.m.state = .running) (hh : s.m.held = []) (hq : s.m.queue = [])
    (hn : b.cell.seq = s.m.nes) (hf : s.pool.free ≠ 0) (limit : Nat) :
    s.m.judge s.mParams limit s.pool.free b = s.takenM b :=
  Ctx.judge_accepts (below := []) (above := []) (.inl hs) (by rw [hn, seqDist_self]; exact Nat.zero_lt_succ _) hh
    (by simp) (by simp) (by rw [Ctx.occupancy, hh, hq]; exact Nat.zero_lt_succ _) hf

/-- A cell at NES of a RUNNING context M that holds nothing is released and handed over at once, where no command can
execute (R32, R47, R75). -/
theorem State.arriveM_atNes (hs : s.m.state = .running) (hh : s.m.held = []) (hq : s.m.queue = [])
    (hn : b.cell.seq = s.m.nes) (hf : s.pool.free ≠ 0)
    (hwait : 8 ≤ s.agent.replies.length ∨ s.agent.restartWaiting = true) {M : Ctx} (hM : s.markArrival b (s.takenM b) = M)
    (hMs : M.state = s.m.state) (hMh : M.held = [{ buffer := b, otherSeen := false }]) (hMn : M.nes = s.m.nes) :
    s.arriveM b = State.handOverCell b { s.moveBuffers (s.takenM b) with
      m := M.ran (s.tables.settings.managementHold.toNat * 100) [{ buffer := b, otherSeen := false }] [] } := by
  obtain ⟨-, -, -, -, -, -, -, -, htables, -, -, -, -, -, -, hreplies, -, hrestart, -⟩ :=
    State.onlyMerge_keeps (State.moveBuffers_onlyMerge (s.takenM b) s)
  have harrive : s.arriveM b = State.settleAgent { s.moveBuffers (s.takenM b) with m := M } := by
    unfold State.arriveM
    rw [State.judge_atNesM hs hh hq hn hf, ← hM]
    rfl
  rw [harrive]
  generalize s.moveBuffers (s.takenM b) = u at htables hreplies hrestart ⊢
  obtain ⟨hm, he⟩ := State.settleAgent_run (s := { u with m := M }) (h := { buffer := b, otherSeen := false })
    (run := []) (rest := []) (hMs.trans hs) hMh
    (fun i r hr => by
      cases i with
      | zero =>
        obtain rfl := Option.some.inj hr
        exact (hn.trans hMn.symm).trans (BitVec.add_zero _).symm
      | succ i => cases hr)
    (fun r hr => by cases hr)
  have hhold : u.tables.settings.managementHold.toNat = s.tables.settings.managementHold.toNat := by rw [htables]
  have hfuel : State.settleFuel { u with m := M } = (2 * M.held.length + u.agent.commands.length) + 1 := rfl
  rw [hfuel] at he
  rw [he]
  dsimp only
  rw [hhold] at hm ⊢
  generalize hv : ({ u with
      m := M.ran (s.tables.settings.managementHold.toNat * 100) [{ buffer := b, otherSeen := false }] [] } : State) = v at hm ⊢
  have hvw : 8 ≤ v.agent.replies.length ∨ v.agent.restartWaiting = true := by
    rw [← hv]
    show 8 ≤ u.agent.replies.length ∨ u.agent.restartWaiting = true
    rw [hreplies, hrestart]
    exact hwait
  have hhand := State.handOverCell_keeps b v
  obtain ⟨hr, hw⟩ := State.handOverCell_replies b v
  rw [List.map_cons, List.map_nil, State.settle_handOver _ b [] (Agent.canExecute_waits hvw) hm]
  exact State.settle_done _ (Agent.canExecute_waits (by rw [hr, hw]; exact hvw))
    (by simp only [State.mParams, State.handOverCell_keeps]; exact hm)

end

theorem Ctx.ran_one {hold : Nat} {h : HeldRec} {c : Ctx} (hn : h.buffer.cell.seq = c.nes) :
    c.ran hold [h] [] = { c with
      nes := c.nes + 1
      held := []
      gapDeadline := none
      history := (.emitted h.buffer.cell.payloadCheck h.buffer.path h.buffer.stamp h.otherSeen :: c.history).take 64
      counters := { c.counters with
        emitted := c.counters.emitted + 1
        acceptedA := if h.buffer.path = .a then c.counters.acceptedA + 1 else c.counters.acceptedA
        acceptedB := if h.buffer.path = .b then c.counters.acceptedB + 1 else c.counters.acceptedB } } := by
  unfold Ctx.ran
  rw [Ctx.afterRun_one hn]

theorem State.moveBuffers_takenM (b : Buffer) (s : State) :
    s.moveBuffers (s.takenM b) = { s with
      pool := { free := s.pool.free - 1, lowWater := min s.pool.lowWater (s.pool.free - 1) }
      alarms := (s.moveBuffers (s.takenM b)).alarms
      agent := { s.agent with notifyPending := (s.moveBuffers (s.takenM b)).agent.notifyPending } } := by
  have h := (State.moveBuffers_onlyAlarms (s.takenM b) s).1
  have hp := State.moveBuffers_pool (s.takenM b) s
  generalize s.moveBuffers (s.takenM b) = u at h hp ⊢
  generalize u.alarms = alarms, u.agent.notifyPending = pending, u.pool = pool at h hp ⊢
  rw [h, hp]
  rfl

/-- The context after a cell at its NES was taken and released at once (R23, R32, R40). -/
def Ctx.passedAtNes (b : Buffer) (c : Ctx) : Ctx :=
  { c with
    nes := c.nes + 1
    gapDeadline := none
    runCount := 0
    history := (.emitted b.cell.payloadCheck b.path b.stamp false :: c.history).take 64
    counters := { c.counters with
      emitted := c.counters.emitted + 1
      acceptedA := if b.path = .a then c.counters.acceptedA + 1 else c.counters.acceptedA
      acceptedB := if b.path = .b then c.counters.acceptedB + 1 else c.counters.acceptedB } }

/-- The state in which the agent is handed the cell that context M took at NES. -/
def State.releasedM (b : Buffer) (c : Ctx) (alarms : Alarms) (pending : Bool) (s : State) : State :=
  { s with
    m := c.passedAtNes b
    pool := { free := s.pool.free - 1, lowWater := min s.pool.lowWater (s.pool.free - 1) }
    alarms := alarms
    agent := { s.agent with notifyPending := pending } }

theorem State.arriveM_passes {b : Buffer} {s : State} (hs : s.m.state = .running) (hh : s.m.held = [])
    (hq : s.m.queue = []) (hn : b.cell.seq = s.m.nes) (hf : s.pool.free ≠ 0)
    (hwait : 8 ≤ s.agent.replies.length ∨ s.agent.restartWaiting = true) {c : Ctx}
    (hM : s.markArrival b (s.takenM b) = { c with held := [{ buffer := b, otherSeen := false }], runCount := 0 })
    (hcs : c.state = s.m.state) (hch : c.held = []) (hcn : c.nes = s.m.nes) :
    ∃ alarms pending, s.arriveM b = (s.releasedM b c alarms pending).handOverCell b := by
  have hran : Ctx.ran (s.tables.settings.managementHold.toNat * 100) [{ buffer := b, otherSeen := false }] []
      { c with held := [{ buffer := b, otherSeen := false }], runCount := 0 } = c.passedAtNes b := by
    rw [Ctx.ran_one (hn.trans hcn.symm)]
    simp only [Ctx.passedAtNes, ← hch]
  have he := State.arriveM_atNes hs hh hq hn hf hwait hM hcs rfl hcn
  rw [hran, State.moveBuffers_takenM] at he
  exact ⟨_, _, he⟩

theorem exec_cellLastByte_management {s : State} {p : Path} {h : Header} {payload : List Byte} {check : Check} (d : Time)
    (hr : (s.rx p).reception = some h) (hl : payload.length = 54) (hp : payloadPasses payload check = true)
    (hm : h.label = managementLabel) :
    exec (.cellLastByte p payload (checkBytes check) d) s = .next (State.arriveM
      (receivedBuffer p h payload check (s.advance d).timeBase)
      ((s.advance d).setRx p { s.rx p with reception := none })) := by
  have hp' : payloadPasses payload (checkOf (checkBytes check)) = true := by rw [checkOf_checkBytes]; exact hp
  rw [exec_cellLastByte_good d hr hl hp', checkOf_checkBytes]
  exact congrArg Host.Outcome.next (State.classify_management hm)

/-- Settles O32: the cell is taken, released at once, and disposed of in one of three ways. -/
theorem contextMHandsCellsToTheAgent : Obligations.ContextMHandsCellsToTheAgent := by
  intro s p h payload check d hph hrx hl hpay hlabel hs hheld hq hseq hf hf' hwait now forMe cmd
  have hx := exec_cellLastByte_management (s := s) (p := p) (h := h) (check := check) d (by rw [hrx]) hl hpay hlabel
  generalize hu : (s.advance d).setRx p { s.rx p with reception := none } = u at hx ⊢
  have um : u.m = s.m := by rw [← hu]; simp
  have upool : u.pool = s.pool := by rw [← hu]; simp
  have uagent : u.agent = s.agent := by rw [← hu]; simp
  have udevice : u.device = s.device := by rw [← hu]; simp
  have utables : u.tables = s.tables := by rw [← hu]; simp
  have urx : (u.rx p).state = .up := by rw [← hu, State.rx_setRx, if_pos rfl, hrx]
  let b : Buffer := receivedBuffer p h payload check now
  change exec (.cellLastByte p payload (checkBytes check) d) s = .next (u.arriveM b) at hx
  have hM : u.markArrival b (u.takenM b) = { u.m.setPres p (s.markedBy now) with
      held := [{ buffer := b, otherSeen := false }], runCount := 0 } := by
    rw [State.markArrival_up (b := b) _ urx, State.markedBy, utables]
    cases p <;> rfl
  obtain ⟨alarms, pending, he⟩ := State.arriveM_passes (b := b) (s := u) (by rw [um]; exact hs) (by rw [um]; exact hheld)
    (by rw [um]; exact hq) (by rw [um]; exact hseq) (by rw [upool]; exact hf) (by rw [uagent]; exact hwait) hM (by simp)
    (by simp [um, hheld]) (by simp)
  generalize hv : u.releasedM b (u.m.setPres p (s.markedBy now)) alarms pending = v at he
  have vm : v.m = { s.m.setPres p (s.markedBy now) with
        nes := s.m.nes + 1
        gapDeadline := none
        runCount := 0
        history := (.emitted check p now false :: s.m.history).take 64
        counters := { s.m.counters with
          emitted := s.m.counters.emitted + 1
          acceptedA := if p = .a then s.m.counters.acceptedA + 1 else s.m.counters.acceptedA
          acceptedB := if p = .b then s.m.counters.acceptedB + 1 else s.m.counters.acceptedB } } := by
    rw [← hv, ← um]
    cases p <;> rfl
  have vpool : v.pool = { free := s.pool.free - 1, lowWater := min s.pool.lowWater (s.pool.free - 1) } := by
    rw [← hv, ← upool]; rfl
  have vagent : v.agent = { s.agent with notifyPending := pending } := by rw [← hv, ← uagent]; rfl
  have vdevice : v.device = s.device := by rw [← hv, ← udevice]; rfl
  have vrest : v = { u with m := v.m, pool := v.pool, agent := v.agent, alarms := v.alarms } := by rw [← hv]; rfl
  have vfree : v.pool.free < Config.poolSize := by
    rw [vpool]
    show s.pool.free - 1 < 2048
    omega
  have hfor : v.forThisPart b ↔ forMe := by
    rw [State.forThisPart, Agent.addressed_iff, vagent]
    rfl
  have hback : s.pool.free - 1 + 1 = s.pool.free := by omega
  have hcmd : commandOf b = cmd := by
    have hfit : fitBytes Config.argBytes (payload.drop 5) = payload.drop 5 :=
      fitBytes_of_length (n := 49) (by rw [List.length_drop, hl])
    exact congrArg (Command.mk _ _ _) hfit
  clear_value now forMe cmd b
  by_cases hb : v.forThisPart b
  · have hme := hfor.mp hb
    by_cases hc : s.agent.commands.length < 4
    · have ht := State.handOverCell_waits vfree hb (by rw [vagent]; exact hc)
      rw [ht] at he
      refine ⟨_, hx.trans (congrArg _ he), vm, ?_, fun hno => absurd hme hno, fun _ _ => ⟨vdevice, ?_⟩,
        fun _ h4 => absurd hc (Nat.not_lt.mpr h4), ?_⟩
      · rw [vpool, hback]
      · rw [vagent, hcmd]
      · rw [vrest]
    · have ht := State.handOverCell_overruns vfree hb (by rw [vagent]; exact Nat.le_of_not_lt hc)
      rw [ht] at he
      have hlatch := (State.latch_onlyAlarms .mgmtOverrun { v with
        pool := { v.pool with free := v.pool.free + 1 }
        device := { v.device with overrun := v.device.overrun + 1 }
        alarms := (v.freeBuffers 1).alarms
        agent := { v.agent with overrun := true } }).1
      have hmask := State.latched_latch .mgmtOverrun { v with
        pool := { v.pool with free := v.pool.free + 1 }
        device := { v.device with overrun := v.device.overrun + 1 }
        alarms := (v.freeBuffers 1).alarms
        agent := { v.agent with overrun := true } }
      refine ⟨_, hx.trans (congrArg _ he), ?_⟩
      generalize State.latch .mgmtOverrun _ = t at hlatch hmask ⊢
      have hp' : t.pool = { free := s.pool.free, lowWater := min s.pool.lowWater (s.pool.free - 1) } := by
        rw [hlatch, vpool, hback]
      have hdevice : t.device = { s.device with overrun := s.device.overrun + 1 } := by rw [hlatch, vdevice]
      have hagent : t.agent = { s.agent with overrun := true, notifyPending := t.agent.notifyPending } := by
        generalize t.agent.notifyPending = pending' at hlatch ⊢
        rw [hlatch, vagent]
      refine ⟨by rw [hlatch]; exact vm, hp', fun hno => absurd hme hno, fun _ h4 => absurd h4 hc,
        fun _ _ => ⟨hdevice, hagent, hmask⟩, ?_⟩
      generalize t.alarms = alarms' at hlatch ⊢
      rw [hlatch, vrest]
  · obtain ⟨ht, -⟩ := State.handOverCell_elsewhere vfree hb
    rw [← he] at ht
    refine ⟨_, hx, ?_⟩
    generalize u.arriveM b = t at ht ⊢
    have hp' : t.pool = { free := s.pool.free, lowWater := min s.pool.lowWater (s.pool.free - 1) } := by
      rw [ht, vpool, hback]
    refine ⟨by rw [ht]; exact vm, hp', fun _ => ⟨by rw [ht, vdevice]; rfl, by rw [ht, vagent]⟩,
      fun hme => absurd (hfor.mpr hme) hb, fun hme => absurd (hfor.mpr hme) hb, ?_⟩
    generalize t.alarms = alarms' at ht ⊢
    rw [ht, vrest]

end Sys2Proof.Machine
end

section
/-! PROOFS. O8: the signal of a line comes and goes. -/

namespace Sys2Proof.Machine

open Sys2Proof

theorem exec_signalLost_up {s : State} {p : Path} {last : Option (List Byte × List Byte)} (d : Time)
    (h : (s.rx p).state = .up) :
    exec (.signalLost ⟨p, last⟩ d) s = .next (State.takeDelivered ((s.advance d).lastOrCut p last).1
      ((((s.advance d).lastOrCut p last).2.setRx p (Receiver.down false)).leftUp p)) :=
  if_pos (by rw [State.advance_rx]; exact h)

theorem exec_signalLost_below {s : State} {p : Path} {last : Option (List Byte × List Byte)} (d : Time)
    (h : (s.rx p).state ≠ .up) :
    exec (.signalLost ⟨p, last⟩ d) s = .next ((s.advance d).setRx p (Receiver.down false)) :=
  if_neg (by rw [State.advance_rx]; exact h)

/-! ## A cell that arrives behind the loss -/

theorem State.reportFlows_flows (s : State) : s.reportFlows.flows = s.flows := by simp

theorem State.handOverCell_m (b : Buffer) (s : State) : (s.handOverCell b).m = s.m := by simp

theorem State.settleFlow_holding (n : Index) (c : Ctx) (s : State) :
    (s.settleFlow n c).alarms.holding = s.alarms.holding := by
  rw [State.settleFlow_eq]
  split <;> simp

/-- An arrival reports the pool and the flow conditions, no link condition. -/
theorem State.arriveFlow_linkHolding (p : Path) (n : Index) (b : Buffer) (s : State) :
    hasKind (s.arriveFlow n b).alarms.holding (linkKind p) = hasKind s.alarms.holding (linkKind p) := by
  have hlink : linkKind p ≠ .flowSilent ∧ linkKind p ≠ .flowUnprotected ∧ linkKind p ≠ .poolEmpty := by
    cases p <;> exact ⟨by decide, by decide, by decide⟩
  have hfree : ∀ (k : Nat) (t : State),
      hasKind (t.freeBuffers k).alarms.holding (linkKind p) = hasKind t.alarms.holding (linkKind p) := fun k t => by
    unfold State.freeBuffers
    split
    · rfl
    · rw [State.report_holding, if_neg hlink.2.2]
  have halloc : ∀ t : State, hasKind t.allocBuffer.alarms.holding (linkKind p) = hasKind t.alarms.holding (linkKind p) :=
    fun t => by
      unfold State.allocBuffer
      dsimp only
      rw [State.report_holding, if_neg hlink.2.2]
  have hmove : ∀ (j : Judged) (t : State),
      hasKind (t.moveBuffers j).alarms.holding (linkKind p) = hasKind t.alarms.holding (linkKind p) := fun j t => by
    unfold State.moveBuffers
    split
    · rw [halloc, hfree]
    · exact hfree _ _
  unfold State.arriveFlow
  dsimp only
  rw [State.reportFlows_holding, if_neg hlink.1, if_neg hlink.2.1, State.settleFlow_holding, State.latchAll_holding, hmove]

theorem State.pres_of_set {s t : State} {n : Index} {c : Ctx} (hf : t.flows = s.flows.set n.val c)
    (hc : ∀ q, c.pres q = (s.flow n).pres q) (k : Index) (q : Path) : (t.flow k).pres q = (s.flow k).pres q := by
  have hget : t.flow k = if n = k ∧ n.val < s.flows.length then c else s.flow k := by
    unfold State.flow
    rw [hf]
    by_cases hk : n = k
    · subst hk
      by_cases hn : n.val < s.flows.length
      · simp [List.getD_eq_getElem?_getD, hn]
      · rw [if_neg (fun e => hn e.2), List.set_eq_of_length_le (Nat.le_of_not_lt hn)]
    · rw [if_neg (fun e => hk e.1), List.getD_eq_getElem?_getD, List.getElem?_set_ne (fun e => hk (Fin.ext e)),
        ← List.getD_eq_getElem?_getD]
  rw [hget]
  split
  · next h => rw [hc, h.1]
  · rfl

/-- A cell whose receiver has left UP marks no presence (R51). -/
theorem State.arriveFlow_pres {n : Index} {b : Buffer} {s : State} (hd : (s.rx b.path).state ≠ .up) (k : Index)
    (q : Path) : ((s.arriveFlow n b).flow k).pres q = (s.flow k).pres q := by
  have hj : Ctx.JudgedAs (Params.ofEntry (s.entry n)) s.pool.free b (s.flow n) (s.judged n b) :=
    Ctx.judge_judgedAs _ s.tables.settings.skewTicks _ _ _
  obtain ⟨-, -, -, hA, hB⟩ := hj.keeps
  have hf : (s.arriveFlow n b).flows
      = s.flows.set n.val (Ctx.settle (s.entry n) s.timeBase (s.markArrival b (s.judged n b))).1 := by
    show (State.settleFlow n (s.markArrival b (s.judged n b))
      ((s.moveBuffers (s.judged n b)).latchAll (s.judged n b).events)).reportFlows.flows = _
    generalize s.judged n b = j
    have hentry : ((s.moveBuffers j).latchAll j.events).entry n = s.entry n := by simp [State.entry]
    rw [State.reportFlows_flows, State.settleFlow_flows, hentry]
    simp
  refine State.pres_of_set hf (fun q => ?_) k q
  rw [Ctx.settle_pres, State.markArrival_down _ hd]
  cases q
  · exact hA
  · exact hB

/-- What a traffic cell that is taken behind the loss leaves as the loss left it (R51, R121). -/
theorem State.classify_behind {b : Buffer} {s : State} (hl : b.cell.label ≠ managementLabel)
    (hd : (s.rx b.path).state ≠ .up) (p : Path) :
    hasKind (s.classify b).alarms.holding (linkKind p) = hasKind s.alarms.holding (linkKind p) ∧
      (hasKind s.alarms.latched (linkKind p) = true → hasKind (s.classify b).alarms.latched (linkKind p) = true) ∧
      (∀ (n : Index) (q : Path), ((s.classify b).flow n).pres q = (s.flow n).pres q) ∧ (s.classify b).m = s.m ∧
      ((s.classify b).device.path p).cellsCut = (s.device.path p).cellsCut := by
  have hcut : ∀ f : PathCounters → PathCounters, (∀ k, (f k).cellsCut = k.cellsCut) →
      ((s.countPath b.path f).device.path p).cellsCut = (s.device.path p).cellsCut := fun f hf => by
    cases b.path <;> cases p <;> simp [State.countPath, DeviceCounters.path, hf]
  obtain ⟨hm, -⟩ | ⟨-, -, e⟩ | ⟨n, -, -, -, e⟩ | ⟨n, -, -, -, e⟩ := State.classify_cases b s
  · exact absurd hm hl
  · rw [e]
    have hflow := State.flow_of_flows (s := s) (t := s.unmatched b.cell.label b.path b.stamp) (by simp)
    refine ⟨by simp, by simp, fun n q => by rw [hflow], by simp, ?_⟩
    unfold State.unmatched
    dsimp only
    split <;> exact hcut _ fun _ => rfl
  · rw [e]
    have hm := State.arriveFlow_onlyMerge n b s
    refine ⟨State.arriveFlow_linkHolding p n b s, hm.2.2 _, State.arriveFlow_pres hd, ?_, by rw [hm.1]⟩
    unfold State.arriveFlow
    simp
  · rw [e]
    have hflow := State.flow_of_flows (s := s)
      (t := s.countPath b.path (fun k => { k with ignoredPath := k.ignoredPath + 1 })) (by simp)
    exact ⟨by simp, by simp, fun n q => by rw [hflow], by simp, hcut _ fun _ => rfl⟩

theorem State.leftUp_length (p : Path) (s : State) : (s.leftUp p).flows.length = s.flows.length := by
  have h := State.forFlows_induct (P := fun t => t.flows.length = s.flows.length)
    (f := fun n t => t.settleFlow n ((t.flow n).markAbsent p))
    (fun n t ht => by rw [State.settleFlow_flows, List.length_set, ht])
    { s.report (linkKind p) true with m := (s.report (linkKind p) true).m.markAbsent p } (by simp)
  unfold State.leftUp State.pathAbsent
  rw [State.reportFlows_flows]
  exact h

/-- A path leaves UP in a state that differs from `s` in receivers, counters and agent alone (R125, R126). -/
theorem State.leftUp_keeps {s w : State} (p : Path) (hf : w.flows = s.flows) (hm : w.m = s.m) (ha : w.alarms = s.alarms) :
    (∀ q, (w.leftUp p).rx q = w.rx q) ∧ (w.leftUp p).device = w.device ∧
      (w.leftUp p).agent.integrity = w.agent.integrity ∧ (w.leftUp p).pool = w.pool ∧
      hasKind (w.leftUp p).alarms.holding (linkKind p) = true ∧
      (hasKind s.alarms.holding (linkKind p) = false → hasKind (w.leftUp p).alarms.latched (linkKind p) = true) ∧
      State.absentEverywhere p (otherPath p) s (w.leftUp p) := by
  obtain ⟨hhold, hlatch, habs, hpool⟩ := State.leftUp_leaves p w
  obtain ⟨-, -, -, -, hA, hB, hd, -, -, -, -, -, -, -, -, -, -, -, -, hint⟩ :=
    State.onlyMerge_keeps (State.leftUp_onlyMerge p w)
  have hflow : ∀ n, w.flow n = s.flow n := State.flow_of_flows hf
  refine ⟨fun q => by cases q <;> simp [State.rx, hA, hB], hd, hint, hpool, hhold, ha ▸ hlatch, ?_⟩
  unfold State.absentEverywhere at habs ⊢
  simp only [hflow, hm] at habs
  exact habs

/-- The flow that the loss leaves to a cell at its NES (R53, R57). -/
theorem State.flow_leftUp_empty {s : State} {p : Path} {n : Index} (hs : (s.flow n).state = .running)
    (hh : (s.flow n).held = []) : (s.leftUp p).flow n = { (s.flow n).markAbsent p with gapDeadline := none } := by
  have hflow := State.flow_of_flows (s := s) (t := s.report (linkKind p) true) (by simp) n
  unfold State.leftUp
  rw [State.flow_pathAbsent, hflow]
  have hs' : ((s.flow n).markAbsent p).state = .running := by simpa [Ctx.markAbsent] using hs
  have hh' : ((s.flow n).markAbsent p).held = [] := by simpa [Ctx.markAbsent] using hh
  rw [Ctx.settle_stay (Ctx.micro_running_nil hs' hh')]

/-- A traffic cell at NES of a flow that holds nothing, taken while its receiver is out of UP: it is released and marks no
presence (R40, R51). -/
theorem State.arriveFlow_atNes {s : State} {n : Index} {b : Buffer} (hl : s.flows.length = 128)
    (hs : (s.flow n).state = .running) (hh : (s.flow n).held = []) (hn : b.cell.seq = (s.flow n).nes)
    (hq : (s.flow n).queue.length < (s.entry n).quota.toNat) (hf : s.pool.free ≠ 0) (hd : (s.rx b.path).state ≠ .up) :
    (s.arriveFlow n b).flow n = { (s.flow n).passedAtNes b with
      queue := (s.flow n).queue ++ sentAs (s.entry n) (s.flow n).renumber [{ buffer := b, otherSeen := false }]
      renumber := if (s.entry n).renumber then (s.flow n).renumber + 1 else (s.flow n).renumber } ∧
    (s.arriveFlow n b).pool = { free := s.pool.free - 1, lowWater := min s.pool.lowWater (s.pool.free - 1) } := by
  have hj : s.judged n b = { ctx := { s.flow n with held := [{ buffer := b, otherSeen := false }], runCount := 0 }
                             disp := .accepted, flushed := 0, events := [] } :=
    Ctx.judge_accepts (below := []) (above := []) (.inl hs) (by rw [hn, seqDist_self]; exact Window.size_pos _) hh
      (by simp) (by simp) (by rw [Ctx.occupancy, hh, List.length_nil, Nat.zero_add]; exact hq) hf
  obtain ⟨hflow, hpool, -⟩ := State.arriveFlow_leaves (n := n) (b := b) hl
  rw [State.markArrival_down _ hd, hj] at hflow
  have hleaves := (Ctx.settle_leaves (e := s.entry n) (now := s.timeBase) (h := { buffer := b, otherSeen := false }) (above := [])
    (c := { s.flow n with held := [{ buffer := b, otherSeen := false }], runCount := 0 }) hs rfl (.inl hn) rfl).1
  rw [hleaves] at hflow
  refine ⟨hflow.trans ((Ctx.afterRun_one hn).trans ?_), ?_⟩
  · simp only [Ctx.passedAtNes, ← hh]
  · rw [hpool, hj, State.moveBuffers_pool]
    rfl

/-! ## The loss -/

theorem State.lastOrCut_last {p : Path} {h : Header} {payload check : List Byte} {s : State}
    (hr : (s.rx p).reception = some h) : s.lastOrCut p (some (payload, check)) = s.lastByte p h payload check := by
  unfold State.lastOrCut
  rw [hr]

theorem State.lastOrCut_cut {p : Path} {last : Option (List Byte × List Byte)} {s : State}
    (hl : last = none ∨ (s.rx p).reception = none) :
    s.lastOrCut p last = (none, s.countPath p (fun k => { k with
      cellsCut := k.cellsCut + (if (s.rx p).reception.isSome = true then 1 else 0) })) := by
  unfold State.lastOrCut
  cases hr : (s.rx p).reception with
  | none =>
    have hid : s.countPath p (fun k => { k with cellsCut := k.cellsCut + 0 }) = s :=
      (congrArg (fun f => s.countPath p f) (funext fun k => by simp)).trans (State.countPath_id p s)
    exact congrArg (Prod.mk none) hid.symm
  | some h =>
    obtain rfl := hl.resolve_right (by rw [hr]; simp)
    rfl

/-- SIGNAL_LOST with no last byte: the cell in reception is cut. -/
theorem signalLost_cuts {s : State} {p : Path} {last : Option (List Byte × List Byte)} {d : Time}
    (hup : (s.rx p).state = .up) (hl : last = none ∨ (s.rx p).reception = none) :
    ∃ t : State, exec (.signalLost ⟨p, last⟩ d) s = .next t ∧ t.rx p = Receiver.down false ∧
      t.rx (otherPath p) = s.rx (otherPath p) ∧
      (t.device.path p).cellsCut
        = (s.device.path p).cellsCut + (if (s.rx p).reception.isSome = true then 1 else 0) ∧
      t.device.path (otherPath p) = s.device.path (otherPath p) ∧
      hasKind t.alarms.holding (linkKind p) = true ∧
      (hasKind s.alarms.holding (linkKind p) = false → hasKind t.alarms.latched (linkKind p) = true) ∧
      State.absentEverywhere p (otherPath p) s t ∧
      t = { s.advance d with
        rxA := t.rxA, rxB := t.rxB, device := t.device, flows := t.flows, m := t.m, alarms := t.alarms
        sched := { s.sched with rings := t.sched.rings }
        agent := { s.agent with notifyPending := t.agent.notifyPending } } := by
  have hrx := State.advance_rx d s p
  refine ⟨_, exec_signalLost_up d hup, ?_⟩
  rw [State.lastOrCut_cut (by rw [hrx]; exact hl), hrx, State.takeDelivered_none]
  dsimp only
  rw [State.countPath_setRx]
  generalize hf : (fun k : PathCounters => ({ k with
    cellsCut := k.cellsCut + (if (s.rx p).reception.isSome = true then 1 else 0) } : PathCounters)) = f
  obtain ⟨a, b, dv, hu⟩ : ∃ a b dv, ((s.advance d).setRx p (Receiver.down false)).countPath p f
      = { s.advance d with rxA := a, rxB := b, device := dv } := by cases p <;> exact ⟨_, _, _, rfl⟩
  obtain ⟨hrx', hdev, hhold, hlatch, habs, hframe⟩ := State.leftUp_behind p hu
  have hd : dv = (((s.advance d).setRx p (Receiver.down false)).countPath p f).device := by rw [hu]
  obtain ⟨hself, hother⟩ := State.countPath_device p f ((s.advance d).setRx p (Receiver.down false))
  rw [← hd] at hself hother
  simp only [State.setRx_keeps, State.advance_keeps] at hself hother
  refine ⟨?_, ?_, by rw [hdev, hself, ← hf], by rw [hdev, hother], hhold, hlatch, habs, hframe⟩
  · rw [hrx', State.countPath_rx, State.setRx_rx]
  · rw [hrx', State.countPath_rx, State.setRx_other, State.advance_rx]

theorem State.payloadError_leaves (p : Path) (kind : Kind) (s : State) :
    (∀ q, (s.payloadError p kind).rx q = s.rx q) ∧
      (s.payloadError p kind).device.path p
        = { s.device.path p with payloadErrors := (s.device.path p).payloadErrors + 1 } ∧
      (s.payloadError p kind).agent.integrity = (if kind = .mgmt then true else s.agent.integrity) := by
  rw [State.payloadError_eq]
  exact ⟨fun q => State.countPath_rx p q _ s, (State.countPath_device p _ s).1, rfl⟩

/-- SIGNAL_LOST that carries a damaged cell's last byte. -/
theorem signalLost_damaged {s : State} {p : Path} {h : Header} {payload : List Byte} {check : Check} {d : Time}
    (hup : (s.rx p).state = .up) (hr : (s.rx p).reception = some h) (hl : payload.length = 54)
    (hp : payloadPasses payload check = false) :
    ∃ t : State, exec (.signalLost ⟨p, some (payload, checkBytes check)⟩ d) s = .next t ∧
      (t.rx p = Receiver.down false ∧ t.rx (otherPath p) = s.rx (otherPath p) ∧
        (t.device.path p).cellsCut = (s.device.path p).cellsCut ∧
        hasKind t.alarms.holding (linkKind p) = true ∧
        (hasKind s.alarms.holding (linkKind p) = false → hasKind t.alarms.latched (linkKind p) = true) ∧
        State.absentEverywhere p (otherPath p) s t) ∧
      t.device.path p = { s.device.path p with payloadErrors := (s.device.path p).payloadErrors + 1 } ∧
      t.agent.integrity = (if h.kind = .mgmt then true else s.agent.integrity) ∧ t.pool = s.pool := by
  have hrx := State.advance_rx d s p
  refine ⟨_, exec_signalLost_up d hup, ?_⟩
  rw [State.lastOrCut_last (by rw [hrx]; exact hr), State.lastByte_damaged hl (by rw [checkOf_checkBytes]; exact hp),
    State.takeDelivered_none]
  dsimp only
  obtain ⟨hrxs, hdev, hint⟩ := State.payloadError_leaves p h.kind ((s.advance d).received p)
  generalize hw : ((s.advance d).received p).payloadError p h.kind = w at hrxs hdev hint
  have wflows : w.flows = s.flows := by rw [← hw]; simp [State.received]
  have wm : w.m = s.m := by rw [← hw]; simp [State.received]
  have walarms : w.alarms = s.alarms := by rw [← hw]; simp [State.received]
  have wpool : w.pool = s.pool := by rw [← hw]; simp [State.received]
  have wagent : w.agent.integrity = (if h.kind = .mgmt then true else s.agent.integrity) := by
    rw [hint]; simp [State.received]
  have wother : w.rx (otherPath p) = s.rx (otherPath p) := by
    rw [hrxs, State.received, State.setRx_other, State.advance_rx]
  have wdevice : w.device.path p = { s.device.path p with payloadErrors := (s.device.path p).payloadErrors + 1 } := by
    rw [hdev]; simp [State.received]
  obtain ⟨trx, tdev, tint, tpool, thold, tlatch, tabs⟩ :=
    State.leftUp_keeps (s := s) (w := w.setRx p (Receiver.down false)) p (by simpa using wflows) (by simpa using wm)
      (by simpa using walarms)
  have tdevice : ((w.setRx p (Receiver.down false)).leftUp p).device = w.device := by rw [tdev]; simp
  exact ⟨⟨by rw [trx, State.setRx_rx], by rw [trx, State.setRx_other, wother], by rw [tdevice, wdevice], thold, tlatch, tabs⟩,
    by rw [tdevice, wdevice], by rw [tint]; simpa using wagent, by rw [tpool]; simpa using wpool⟩

/-- The state in which a cell that fell together with the loss is taken (R121, R126). -/
def State.lineLost (p : Path) (s : State) : State := (s.setRx p (Receiver.down false)).leftUp p

/-- SIGNAL_LOST that carries a good cell's last byte: the loss first, and then the cell is classified. -/
theorem exec_signalLost_good {s : State} {p : Path} {h : Header} {payload : List Byte} {check : Check} (d : Time)
    (hup : (s.rx p).state = .up) (hr : (s.rx p).reception = some h) (hl : payload.length = 54)
    (hp : payloadPasses payload check = true) :
    exec (.signalLost ⟨p, some (payload, checkBytes check)⟩ d) s
      = .next (((s.advance d).lineLost p).classify (receivedBuffer p h payload check (s.advance d).timeBase)) := by
  have hrx := State.advance_rx d s p
  rw [exec_signalLost_up d hup, State.lastOrCut_last (by rw [hrx]; exact hr),
    State.lastByte_good hl (by rw [checkOf_checkBytes]; exact hp), checkOf_checkBytes, State.takeDelivered_some]
  dsimp only
  rw [State.received, State.setRx_setRx, State.lineLost]

theorem State.lineLost_leaves (p : Path) (d : Time) (s : State) :
    let u := (s.advance d).lineLost p
    u.rx p = Receiver.down false ∧ u.rx (otherPath p) = s.rx (otherPath p) ∧ u.device = s.device ∧ u.pool = s.pool ∧
      u.tables = s.tables ∧ u.flows.length = s.flows.length ∧ u.agent.replies = s.agent.replies ∧
      u.agent.restartWaiting = s.agent.restartWaiting ∧ u.m = s.m.markAbsent p ∧
      hasKind u.alarms.holding (linkKind p) = true ∧
      (hasKind s.alarms.holding (linkKind p) = false → hasKind u.alarms.latched (linkKind p) = true) ∧
      State.absentEverywhere p (otherPath p) s u := by
  obtain ⟨trx, tdev, -, tpool, thold, tlatch, tabs⟩ :=
    State.leftUp_keeps (s := s) (w := (s.advance d).setRx p (Receiver.down false)) p (by simp) (by simp) (by simp)
  obtain ⟨-, -, -, -, -, -, -, -, htab, -, -, -, -, -, -, hrep, -, hrest, -⟩ :=
    State.onlyMerge_keeps (State.leftUp_onlyMerge p ((s.advance d).setRx p (Receiver.down false)))
  refine ⟨by rw [State.lineLost, trx, State.setRx_rx], by rw [State.lineLost, trx, State.setRx_other, State.advance_rx],
    by rw [State.lineLost, tdev]; simp, by rw [State.lineLost, tpool]; simp, by rw [State.lineLost, htab]; simp, ?_,
    by rw [State.lineLost, hrep]; simp, by rw [State.lineLost, hrest]; simp, ?_, thold, tlatch, tabs⟩
  · rw [State.lineLost, State.leftUp_length]
    simp
  · rw [State.lineLost, State.leftUp, State.pathAbsent_m]
    simp

/-- Settles O8. -/
theorem signalChangesTakeTheReceiver : Obligations.SignalChangesTakeTheReceiver := by
  intro s p d last down
  refine ⟨?_, fun h => exec_signalLost_below d h, signalLost_cuts, ?_⟩
  · show Host.Outcome.next ((s.advance d).setRx p _) = _
    congr 2
    have hc := Phase.counting_iff (s.advance d).phase
    simp only [State.advance_keeps] at hc
    simp only [State.advance_rx, State.advance_keeps, Receiver.released]
    by_cases h1 : s.phase = .starting ∨ s.phase = .active
    · by_cases h2 : (s.rx p).state = .down <;> simp [hc.mpr h1, h1, h2]
    · have hn : s.phase.counting = false := by simpa using mt hc.mp h1
      simp [hn, h1]
  · intro h payload check hup hr hl now absent passed
    by_cases hp : payloadPasses payload check = true
    · have hx := exec_signalLost_good (s := s) (check := check) d hup hr hl hp
      have ulost := fun n => State.flow_leftUp_empty (s := (s.advance d).setRx p (Receiver.down false)) (p := p) (n := n)
      have sflow := fun n => State.flow_of_flows (s := s) (t := (s.advance d).setRx p (Receiver.down false)) (by simp) n
      simp only [sflow] at ulost
      change ∀ n, _ → _ → ((s.advance d).lineLost p).flow n = _ at ulost
      obtain ⟨urx, uother, udev, upool, utab, ulen, urep, urest, um, uhold, ulatch, uabs⟩ := State.lineLost_leaves p d s
      change exec _ s = .next (((s.advance d).lineLost p).classify (receivedBuffer p h payload check now)) at hx
      generalize (s.advance d).lineLost p = u at *
      have udown : (u.rx p).state ≠ .up := by rw [urx]; simp [Receiver.down]
      have hclass := State.classify_frame (receivedBuffer p h payload check now) u
      refine ⟨_, hx, fun htraffic => ?_, fun hbad => ?_, ?_, ?_⟩
      · have hlabel := htraffic.resolve_left (by rw [hp]; simp)
        obtain ⟨hhold, hlatch, hpres, hm, hcut⟩ :=
          State.classify_behind (b := receivedBuffer p h payload check now) hlabel udown p
        have hrx : ∀ q, (u.classify (receivedBuffer p h payload check now)).rx q = u.rx q := fun q => by
          cases q <;> simp [State.rx]
        refine ⟨(hrx p).trans urx, (hrx _).trans uother, by rw [hcut, udev], hhold.trans uhold,
          fun hs => hlatch (ulatch hs), fun n => ⟨?_, ?_⟩, ?_, ?_⟩
        · rw [hpres, (uabs.1 n).1]
        · rw [hpres, (uabs.1 n).2]
        · rw [hm, uabs.2.1]
        · rw [hm, uabs.2.2]
      · rw [hp] at hbad
        cases hbad
      · intro n hreach hs hh hseq hq hf c
        obtain ⟨-, -, -, -, hlabel, hlen, hb, hv, hi, huses⟩ := hreach
        have hentry : u.entry n = s.entry n := congrArg (fun t : Tables => t.active.entry n) utab
        have harrive : u.classify (receivedBuffer p h payload check now)
            = u.arriveFlow n (receivedBuffer p h payload check now) :=
          State.classify_used hlabel (by rw [utab]; exact Bank.lookup_sound hb hv hi) (by rw [hentry]; exact huses)
        have hflow := ulost n hs hh
        obtain ⟨tflow, tpool⟩ := State.arriveFlow_atNes (s := u) (n := n) (b := receivedBuffer p h payload check now)
          (by rw [ulen, hlen]) (by rw [hflow]; simpa [Ctx.markAbsent] using hs)
          (by rw [hflow]; simpa [Ctx.markAbsent] using hh) (by rw [hflow]; show h.seq = _; simpa [Ctx.markAbsent] using hseq)
          (by rw [hflow, hentry]; simpa [Ctx.markAbsent] using hq) (by rw [upool]; exact hf) udown
        have tdev : (u.arriveFlow n (receivedBuffer p h payload check now)).device = u.device := by
          rw [(State.arriveFlow_onlyMerge n _ u).1]
        rw [harrive]
        refine ⟨tflow.trans ?_, tdev.trans udev, ?_⟩
        · have hsent : ∀ renumber : Seq, sentAs (s.entry n) renumber
              [{ buffer := receivedBuffer p h payload check now, otherSeen := false }] = [{
                cell := { kind := h.kind, label := (s.entry n).outLabel,
                          seq := if (s.entry n).renumber then renumber else h.seq, headerCheck := h.check,
                          payload := payload, payloadCheck := check }
                path := p, stamp := now }] := fun renumber => by simp [sentAs, receivedBuffer]
          rw [hflow, hentry, hsent]
          cases p <;> rfl
        · rw [tpool, upool]
      · intro hph _ hlabel hs hh hseq hf hq hwait
        have harrive : u.classify (receivedBuffer p h payload check now)
            = u.arriveM (receivedBuffer p h payload check now) := State.classify_management hlabel
        obtain ⟨alarms, pending, he⟩ := State.arriveM_passes (b := receivedBuffer p h payload check now) (s := u) (c := u.m)
          (by rw [um]; simpa [Ctx.markAbsent] using hs) (by rw [um]; simpa [Ctx.markAbsent] using hh)
          (by rw [um]; simpa [Ctx.markAbsent] using hq) (by rw [um]; show h.seq = _; simpa [Ctx.markAbsent] using hseq)
          (by rw [upool]; exact hf) (by rw [urep, urest]; exact hwait)
          (by rw [State.markArrival_down _ udown]; rfl) rfl (by rw [um]; simpa [Ctx.markAbsent] using hh) rfl
        have hm : (u.classify (receivedBuffer p h payload check now)).m = passed s.m := by
          rw [harrive, he, State.handOverCell_m]
          show u.m.passedAtNes (receivedBuffer p h payload check now) = _
          rw [um]
          cases p <;> rfl
        refine ⟨hm, ?_⟩
        have hrx : (u.classify (receivedBuffer p h payload check now)).rx p = u.rx p := by
          cases p <;> simp [State.rx]
        exact hrx.trans urx
    · have hp' : payloadPasses payload check = false := by simpa using hp
      obtain ⟨t, hx, hcommon, hdamaged⟩ := signalLost_damaged (d := d) hup hr hl hp'
      exact ⟨t, hx, fun _ => hcommon, fun _ => hdamaged, fun n hreach => absurd hreach.2.2.2.1 hp,
        fun _ hpass => absurd hpass hp⟩

end Sys2Proof.Machine
end

section
/-! PROOFS. A command executes alike whatever commands wait behind it (R154). -/

namespace Sys2Proof.Machine

open Sys2Proof

/-- The state with other commands in the command queue. -/
def State.withCommands (w : List Command) (s : State) : State :=
  { s with agent := { s.agent with commands := w } }

section
variable (w : List Command) (s : State)

theorem State.withCommands_alarms : (s.withCommands w).alarms = s.alarms := rfl

theorem State.withCommands_tables : (s.withCommands w).tables = s.tables := rfl

theorem State.withCommands_store : (s.withCommands w).store = s.store := rfl

theorem State.withCommands_timeBase : (s.withCommands w).timeBase = s.timeBase := rfl

theorem State.withCommands_flow (n : Index) : (s.withCommands w).flow n = s.flow n := rfl

theorem State.withCommands_entry (n : Index) : (s.withCommands w).entry n = s.entry n := rfl

/-! ## The state's operations -/

theorem State.latch_withCommands (k : AlarmKind) :
    (s.withCommands w).latch k = (s.latch k).withCommands w := by
  unfold State.latch
  rw [State.withCommands_alarms]
  split <;> rfl

theorem State.report_withCommands (k : AlarmKind) (holds : Bool) :
    (s.withCommands w).report k holds = (s.report k holds).withCommands w := by
  have hl := State.latch_withCommands w { s with alarms := { s.alarms with holding := s.alarms.holding ||| k.mask } } k
  unfold State.report
  cases holds
  · rfl
  · rw [if_pos rfl, if_pos rfl, State.withCommands_alarms]
    split
    · rfl
    · exact hl

theorem State.freeBuffers_withCommands (k : Nat) :
    (s.withCommands w).freeBuffers k = (s.freeBuffers k).withCommands w := by
  unfold State.freeBuffers
  split
  · rfl
  · exact State.report_withCommands w { s with pool := { s.pool with free := s.pool.free + k } } .poolEmpty false

theorem State.putFlow_withCommands (n : Index) (c : Ctx) :
    (s.withCommands w).putFlow n c = (s.putFlow n c).withCommands w := by
  unfold State.putFlow
  rw [State.withCommands_flow]
  split <;> rfl

theorem State.settleFlow_withCommands (n : Index) (c : Ctx) :
    (s.withCommands w).settleFlow n c = (s.settleFlow n c).withCommands w := by
  rw [State.settleFlow_eq, State.settleFlow_eq, State.withCommands_entry, State.withCommands_timeBase,
    State.putFlow_withCommands, State.latch_withCommands]
  split <;> rfl

theorem State.forFlows_withCommands {f : Index → State → State}
    (hf : ∀ (n : Index) (t : State), f n (t.withCommands w) = (f n t).withCommands w) :
    (s.withCommands w).forFlows f = (s.forFlows f).withCommands w := by
  unfold State.forFlows
  induction List.finRange 128 generalizing s with
  | nil => rfl
  | cons n l ih => rw [List.foldl_cons, List.foldl_cons, hf, ih]

theorem State.reportFlows_withCommands : (s.withCommands w).reportFlows = s.reportFlows.withCommands w := by
  unfold State.reportFlows
  rw [← State.report_withCommands, ← State.report_withCommands]
  rfl

theorem State.retimeAll_withCommands : (s.withCommands w).retimeAll = s.retimeAll.withCommands w := by
  unfold State.retimeAll
  dsimp only
  rw [← State.reportFlows_withCommands, ← State.forFlows_withCommands w _ fun n t => ?_]
  · rfl
  · rw [State.withCommands_flow, State.settleFlow_withCommands]
    rfl

theorem State.writeSettings_withCommands (t : Settings) :
    (s.withCommands w).writeSettings t = (s.writeSettings t).withCommands w := by
  have hr := State.retimeAll_withCommands w { s with tables := { s.tables with settings := t } }
  unfold State.writeSettings
  dsimp only
  rw [State.withCommands_tables]
  split
  · rfl
  · exact hr

theorem State.flushFlow_withCommands (n : Index) :
    (s.withCommands w).flushFlow n = (s.flushFlow n).withCommands w := by
  have hf := State.freeBuffers_withCommands w (s.setFlow n (s.flow n).resetFlow) (s.flow n).held.length
  unfold State.flushFlow
  rw [← State.reportFlows_withCommands, ← hf]
  rfl

theorem State.trafficRestart_withCommands :
    (s.withCommands w).trafficRestart = s.trafficRestart.withCommands w := by
  unfold State.trafficRestart
  dsimp only
  rw [← State.reportFlows_withCommands, ← State.report_withCommands]
  rfl

theorem State.answer_withCommands (c : Command) (st : Status) (result : List Byte) :
    (s.withCommands w).answer c st result = (s.answer c st result).withCommands w := rfl

theorem State.changeRecord_withCommands (i : ContextId) (f : Ctx → Ctx) :
    (s.withCommands w).changeRecord i f = (s.changeRecord i f).withCommands w := by
  cases i <;> rfl

/-! ## The commands -/

variable (c : Command)

theorem runGetEntry_withCommands : runGetEntry c (s.withCommands w) = (runGetEntry c s).withCommands w := by
  unfold runGetEntry
  rw [State.withCommands_tables]
  split <;> rfl

theorem runGetSlots_withCommands : runGetSlots c (s.withCommands w) = (runGetSlots c s).withCommands w := by
  unfold runGetSlots
  rw [State.withCommands_tables]
  split
  · split <;> rfl
  · rfl

theorem runGetStatus_withCommands : runGetStatus c (s.withCommands w) = (runGetStatus c s).withCommands w := by
  unfold runGetStatus
  dsimp only
  split <;> rfl

theorem runGetCounters_withCommands : runGetCounters c (s.withCommands w) = (runGetCounters c s).withCommands w := by
  have hr : ∀ i, (s.withCommands w).countersResult i (c.arg 0) (c.arg 1) = s.countersResult i (c.arg 0) (c.arg 1) :=
    fun i => by cases i <;> rfl
  unfold runGetCounters
  dsimp only
  split
  · simp only [hr, State.answer_withCommands, State.changeRecord_withCommands]
    split
    · split <;> rfl
    · rfl
  · rfl

theorem runGetDeviceCounters_withCommands :
    runGetDeviceCounters c (s.withCommands w) = (runGetDeviceCounters c s).withCommands w := by
  unfold runGetDeviceCounters
  dsimp only
  split <;> rfl

theorem runPutEntry_withCommands : runPutEntry c (s.withCommands w) = (runPutEntry c s).withCommands w := by
  unfold runPutEntry
  rw [State.withCommands_tables]
  split
  · rfl
  · split <;> rfl

theorem runPutSlots_withCommands : runPutSlots c (s.withCommands w) = (runPutSlots c s).withCommands w := by
  unfold runPutSlots
  rw [State.withCommands_tables]
  split
  · rfl
  · split
    · split <;> rfl
    · rfl

theorem runPutCalHeader_withCommands : runPutCalHeader c (s.withCommands w) = (runPutCalHeader c s).withCommands w := by
  unfold runPutCalHeader
  rw [State.withCommands_tables]
  split
  · rfl
  · split <;> rfl

theorem runCommit_withCommands : runCommit c (s.withCommands w) = (runCommit c s).withCommands w := by
  unfold runCommit
  rw [State.withCommands_tables]
  split
  · rfl
  · split <;> rfl

theorem runAbandon_withCommands : runAbandon c (s.withCommands w) = (runAbandon c s).withCommands w := by
  unfold runAbandon
  rw [State.withCommands_tables]
  split <;> rfl

theorem runPutSettings_withCommands : runPutSettings c (s.withCommands w) = (runPutSettings c s).withCommands w := by
  unfold runPutSettings
  split
  · rw [State.writeSettings_withCommands]
    rfl
  · rfl

theorem runResetFlow_withCommands : runResetFlow c (s.withCommands w) = (runResetFlow c s).withCommands w := by
  unfold runResetFlow
  split
  · next n _ =>
    rw [State.withCommands_entry, State.flushFlow_withCommands]
    split <;> rfl
  · rfl

theorem runSave_withCommands : runSave c (s.withCommands w) = (runSave c s).withCommands w := by
  unfold runSave
  rw [State.withCommands_store]
  split <;> rfl

theorem runLoad_withCommands : runLoad c (s.withCommands w) = (runLoad c s).withCommands w := by
  have hw := fun bank t => State.writeSettings_withCommands w (State.writePending bank { s with store := s.store.consult }) t
  unfold runLoad
  dsimp only
  rw [State.withCommands_tables, State.withCommands_store]
  split
  · rfl
  · split
    · rfl
    · split
      · rfl
      · rw [← State.answer_withCommands, ← hw]
        rfl

theorem runRestartFull_withCommands : runRestartFull c (s.withCommands w) = (runRestartFull c s).withCommands w := by
  unfold runRestartFull
  rw [State.withCommands_store]
  split <;> rfl

theorem runRestartTraffic_withCommands :
    runRestartTraffic c (s.withCommands w) = (runRestartTraffic c s).withCommands w := by
  unfold runRestartTraffic
  rw [State.trafficRestart_withCommands, State.answer_withCommands]

/-- What a command does at its execution does not hang on the commands behind it (R154). -/
theorem runCommand_withCommands : runCommand c (s.withCommands w) = (runCommand c s).withCommands w := by
  unfold runCommand
  simp only [runGetEntry_withCommands, runGetSlots_withCommands, runGetStatus_withCommands, runGetCounters_withCommands,
    runGetDeviceCounters_withCommands, runPutEntry_withCommands, runPutSlots_withCommands, runPutCalHeader_withCommands,
    runCommit_withCommands, runAbandon_withCommands, runPutSettings_withCommands, runResetFlow_withCommands,
    runSave_withCommands, runLoad_withCommands, runRestartFull_withCommands, runRestartTraffic_withCommands,
    apply_ite (State.withCommands w)]
  rfl
end

end Sys2Proof.Machine
end

section
/-! PROOFS. O27: a return cell time. -/

namespace Sys2Proof.Machine

open Sys2Proof

/-! ## Which commands write the Settings -/

section
variable (c : Command) (s : State)

theorem runGetEntry_tables : (runGetEntry c s).tables = s.tables := by
  unfold runGetEntry
  split <;> rfl

theorem runGetSlots_tables : (runGetSlots c s).tables = s.tables := by
  unfold runGetSlots
  split
  · split <;> rfl
  · rfl

theorem runGetStatus_tables : (runGetStatus c s).tables = s.tables := by
  unfold runGetStatus
  dsimp only
  split <;> rfl

theorem State.changeRecord_tables (i : ContextId) (f : Ctx → Ctx) : (s.changeRecord i f).tables = s.tables := by
  cases i <;> rfl

theorem runGetCounters_tables : (runGetCounters c s).tables = s.tables := by
  unfold runGetCounters
  split
  · split
    · dsimp only
      split
      · rw [State.changeRecord_tables]
        rfl
      · rfl
    · rfl
  · rfl

theorem runGetDeviceCounters_tables : (runGetDeviceCounters c s).tables = s.tables := by
  unfold runGetDeviceCounters
  dsimp only
  split <;> rfl

theorem runPutEntry_settings : (runPutEntry c s).tables.settings = s.tables.settings := by
  unfold runPutEntry
  split
  · rfl
  · split <;> rfl

theorem runPutSlots_settings : (runPutSlots c s).tables.settings = s.tables.settings := by
  unfold runPutSlots
  split
  · rfl
  · split
    · split <;> rfl
    · rfl

theorem runPutCalHeader_settings : (runPutCalHeader c s).tables.settings = s.tables.settings := by
  unfold runPutCalHeader
  split
  · rfl
  · split <;> rfl

theorem runCommit_settings : (runCommit c s).tables.settings = s.tables.settings := by
  unfold runCommit
  split
  · rfl
  · split <;> rfl

theorem runAbandon_settings : (runAbandon c s).tables.settings = s.tables.settings := by
  unfold runAbandon
  split <;> rfl

theorem runResetFlow_tables : (runResetFlow c s).tables = s.tables := by
  unfold runResetFlow
  split
  · next n _ =>
    split
    · show (s.flushFlow n).tables = s.tables
      rw [(State.flushFlow_onlyMerge n s).1]
    · rfl
  · rfl

theorem runSave_tables : (runSave c s).tables = s.tables := by
  unfold runSave
  split <;> rfl

theorem runRestart_tables :
    (if c.arg 0 = restartFullKind then runRestartFull c s else runRestartTraffic c s).tables = s.tables := by
  split
  · unfold runRestartFull
    split <;> rfl
  · show s.trafficRestart.tables = s.tables
    rw [(State.trafficRestart_onlyMerge s).1]
    rfl

/-- The Settings record stands. -/
def State.SameSettings (s t : State) : Prop := t.tables.settings = s.tables.settings

theorem State.SameSettings.of_tables {s t : State} (h : t.tables = s.tables) : s.SameSettings t :=
  congrArg Tables.settings h

/-- No other command than PUT_SETTINGS and LOAD writes the Settings record (R169, R194). -/
theorem runCommand_settings (h29 : c.code ≠ 0x29) (h39 : c.code ≠ 0x39) :
    s.SameSettings (runCommand c s) := by
  have same : ∀ (st : Status) (result : List Byte), s.SameSettings (s.answer c st result) := fun _ _ => rfl
  unfold runCommand
  refine iteInduction (fun _ => same _ _) fun _ => ?_
  refine iteInduction (fun _ => State.SameSettings.of_tables (runGetStatus_tables c s)) fun _ => ?_
  refine iteInduction (fun _ => State.SameSettings.of_tables (runGetEntry_tables c s)) fun _ => ?_
  refine iteInduction (fun _ => runPutEntry_settings c s) fun _ => ?_
  refine iteInduction (fun _ => State.SameSettings.of_tables (runGetSlots_tables c s)) fun _ => ?_
  refine iteInduction (fun _ => runPutSlots_settings c s) fun _ => ?_
  refine iteInduction (fun _ => runPutCalHeader_settings c s) fun _ => ?_
  refine iteInduction (fun _ => runCommit_settings c s) fun _ => ?_
  refine iteInduction (fun _ => runAbandon_settings c s) fun _ => ?_
  refine iteInduction (fun _ => State.SameSettings.of_tables (runGetCounters_tables c s)) fun _ => ?_
  refine iteInduction (fun _ => State.SameSettings.of_tables (runGetDeviceCounters_tables c s)) fun _ => ?_
  refine iteInduction (fun _ => State.SameSettings.of_tables rfl) fun _ => ?_
  refine iteInduction (fun _ => State.SameSettings.of_tables rfl) fun _ => ?_
  refine iteInduction (fun _ => State.SameSettings.of_tables rfl) fun _ => ?_
  refine iteInduction (fun h => absurd h h29) fun _ => ?_
  refine iteInduction (fun _ => State.SameSettings.of_tables rfl) fun _ => ?_
  refine iteInduction (fun _ => State.SameSettings.of_tables rfl) fun _ => ?_
  refine iteInduction (fun _ => State.SameSettings.of_tables (runResetFlow_tables c s)) fun _ => ?_
  refine iteInduction (fun _ => State.SameSettings.of_tables (runSave_tables c s)) fun _ => ?_
  refine iteInduction (fun h => absurd h h39) fun _ => ?_
  refine iteInduction (fun _ => State.SameSettings.of_tables (runRestart_tables c s)) fun _ => ?_
  exact same _ _
end

/-! ## The head executes into the freed place -/

theorem State.settleM_withCommands (w : List Command) (s : State) :
    (s.withCommands w).settleM = (s.settleM.1, s.settleM.2.withCommands w) := by
  have hl := fun ctx => State.latch_withCommands w { s with m := ctx } .loss
  unfold State.settleM
  dsimp only
  refine congrArg (Prod.mk _) ?_
  show (if (s.m.settleRun s.mParams s.timeBase s.m.settleFuel).lost = true then _ else _) = _
  split
  · exact hl _
  · rfl

/-- Context M releases nothing behind the head's execution where the head leaves its hold or it holds nothing. -/
theorem State.settleM_headReleases {s : State} {c : Command} (hm : s.m.settled s.mParams s.timeBase)
    (hs : c.code ≠ 0x29 ∧ c.code ≠ 0x39 ∨ s.m.held = []) : (runCommand c s).settleM.1 = [] := by
  have he := runCommand_executed c s
  have hcases := he.m_cases
  obtain ⟨-, -, htime, -⟩ := he.keeps
  obtain ⟨h29, h39⟩ | hheld := hs
  · have hset := runCommand_settings c s h29 h39
    generalize runCommand c s = t at hcases htime hset
    have hparams : t.mParams = s.mParams := congrArg Params.ofSettings hset
    have hsettled : t.m.settled t.mParams t.timeBase := by
      rw [hparams, htime]
      obtain h | ⟨group, h⟩ | ⟨timeout, h⟩ | h := hcases <;> rw [h]
      · exact hm
      · exact Ctx.settled_clearGroup hm group
      · exact Ctx.settled_retime_m hm timeout
      · exact Ctx.micro_idle _ _ (fun e => nomatch e) (fun e => nomatch e)
    rw [State.settleM_stay hsettled]
  · generalize runCommand c s = t at hcases
    have hth : t.m.held = [] := by
      obtain h | ⟨group, h⟩ | ⟨timeout, h⟩ | h := hcases <;> rw [h]
      · exact hheld
      · exact (Ctx.clearGroup_keeps group s.m).2.2.1.trans hheld
      · exact hheld
      · rfl
    obtain ⟨run, hr⟩ := Ctx.settleRun_emptied t.mParams t.timeBase t.m.settleFuel t.m
    have hrun : run = [] := (List.append_eq_nil_iff.mp (hr.held.symm.trans hth)).1
    show (t.m.settleRun t.mParams t.timeBase t.m.settleFuel).released = []
    rw [hr.released, hrun]
    rfl

/-- The head executes into the one free place, and the commands behind it wait (R154). -/
theorem State.settleAgent_head {s : State} {c : Command} {w : List Command} (hm : s.m.settled s.mParams s.timeBase)
    (hc : s.agent.commands = c :: w) (hw : s.agent.restartWaiting = false) (hr : s.agent.replies.length = 7)
    (hs : c.code ≠ 0x29 ∧ c.code ≠ 0x39 ∨ s.m.held = []) :
    s.settleAgent = ((runCommand c s).settleM.2).withCommands w := by
  have hx : s.agent.canExecute = true := by simp [Agent.canExecute, Agent.placeFree, hc, hw, hr, Config.replyPlaces]
  have hfuel : s.settleFuel = (2 * s.m.held.length + w.length + 1) + 1 := by
    rw [State.settleFuel, hc, List.length_cons]
    omega
  have hhead : s.executeHead = (runCommand c s).withCommands w := by
    unfold State.executeHead
    rw [hc]
    exact runCommand_withCommands w s c
  have hfull : ((runCommand c s).settleM.2.withCommands w).agent.canExecute = false := by
    refine Agent.canExecute_waits (.inl ?_)
    obtain ⟨-, place, hplace, -⟩ := (runCommand_executed c s).addsPlace
    obtain ⟨-, -, -, -, -, -, -, -, -, -, -, -, -, -, -, hreplies, -⟩ :=
      State.onlyMerge_keeps (State.settleM_onlyMerge (runCommand c s))
    show 8 ≤ (runCommand c s).settleM.2.agent.replies.length
    rw [hreplies, hplace, List.length_append, hr]
    exact Nat.le_refl 8
  have hsettle := State.settleM_withCommands w (runCommand c s)
  rw [State.settleM_headReleases hm hs] at hsettle
  unfold State.settleAgent
  rw [hfuel, State.settle_execute _ [] hx hm, hhead]
  unfold State.settle
  rw [hsettle]
  dsimp only
  rw [hfull]
  rfl

theorem fitBytes_short {n : Nat} {bytes : List Byte} (h : bytes.length ≤ n) :
    fitBytes n bytes = bytes ++ List.replicate (n - bytes.length) 0 := by
  unfold fitBytes
  rw [List.take_append, List.take_of_length_le h, List.take_replicate, Nat.min_eq_left (Nat.sub_le _ _)]

theorem State.returnTake_taken {s : State} {r : Reply} {left : List Place} (h : takeFilled s.agent.replies = some (r, left))
    (hf : r.restartsFull = false) (addr : BitVec 5) : s.returnTake addr = (s.sendReply r left).settleAgent := by
  unfold State.returnTake
  rw [h]
  exact if_neg (by rw [hf]; decide)

/-- Settles O27. -/
theorem returnCellTimeSendsTheOldestReply : Obligations.ReturnCellTimeSendsTheOldestReply := by
  intro s addr d
  refine ⟨fun hp => ?_, fun hp => ?_, ?_⟩
  · show execReturnCellTime addr d s = _
    have ha : s.advance d = s := by
      rw [State.advance_eq, if_neg (by obtain h | h := hp <;> rw [h] <;> decide)]
    unfold execReturnCellTime
    rw [ha]
    obtain h | h := hp <;> dsimp only <;> rw [h]
  · obtain h | ⟨h, hres⟩ := hp
    · show execReturnCellTime addr d s = _
      unfold execReturnCellTime
      rw [State.advance_counting (.inl h)]
      dsimp only
      rw [h]
      rfl
    · rw [exec_returnCellTime_active h]
      unfold State.returnTake
      dsimp only
      rw [takeFilled_none hres]
      rfl
  · intro ahead behind r hp hr ha hf hm hlen taken
    have hx := exec_returnCellTime_active hp addr d
    have htake : takeFilled s.agent.replies = some (r, ahead ++ behind) := by rw [hr]; exact takeFilled_oldest ha
    rw [State.returnTake_taken (s := { s with timeBase := s.timeBase + d, addrPins := addr }) htake hf] at hx
    have htaken : State.sendReply r (ahead ++ behind) { s with timeBase := s.timeBase + d, addrPins := addr } = taken := by
      unfold State.sendReply replyPayload
      rw [fitBytes_short (n := Config.argBytes) hlen]
      rfl
    rw [htaken] at hx
    have hset : taken.m.settled taken.mParams taken.timeBase := (Ctx.settled_iff _ _ _).mpr ((Ctx.settled_iff _ _ _).mp hm)
    refine ⟨fun hnone => hx.trans (congrArg Host.Outcome.next (State.settleAgent_done ?_ hset)),
      fun i c waiting hc hw h8 hi hargs htarget hs => ?_⟩
    · obtain h | h := hnone
      · exact Agent.canExecute_idle h
      · exact Agent.canExecute_waits (.inr h)
    · have h7 : taken.agent.replies.length = 7 := by
        show (ahead ++ behind).length = 7
        rw [hr, List.length_append, List.length_cons] at h8
        rw [List.length_append]
        omega
      have hthere := State.settleAgent_head (s := taken) hset hc hw h7 hs
      have hcmd : handed c.code c.target c.tag c.args = c :=
        congrArg (fun args => ({ c with args := args } : Command)) (fitBytes_of_length (n := Config.argBytes) hargs)
      have hhere := State.settleAgent_head (s := taken.withCommands [c]) (w := []) hset rfl hw h7 hs
      rw [runCommand_withCommands, State.settleM_withCommands] at hhere
      have hdeliver : State.agentTakes c.code c.target c.tag c.args { taken with agent := { taken.agent with commands := [] } }
          = (taken.withCommands [c]).settleAgent := by
        unfold State.agentTakes
        rw [if_pos hp]
        have h : State.deliver 0 (handed c.code c.target c.tag c.args) { taken with agent := { taken.agent with commands := [] } }
            = taken.withCommands [c] := by
          rw [hcmd]
          exact (if_pos ⟨by decide, (Agent.addressed_iff _ _).mpr htarget⟩).trans
            (State.receiveCommand_waits (s := taken.withCommands []) (Nat.zero_lt_succ 3))
        exact congrArg State.settleAgent h
      refine ⟨_, (exec_handed hi _).trans (congrArg Host.Outcome.next (hdeliver.trans hhere)), ?_⟩
      rw [hx, hthere]
      rfl

end Sys2Proof.Machine
end
